-- ==== Sys2Proof/Word.lean ====
section
/-! DEFINITION. The word types of the GPSPRN block, one name for each width the spec uses. -/

namespace Sys2Proof

/-- A host register or a CMD word: 32 bits (R37, R80). -/
abbrev Word := BitVec 32

/-- Ten stages, or a mask over ten stages: stage `k` is bit `k - 1` (R11). -/
abbrev Stages := BitVec 10

/-- A tap index mask on the leaf's op port: bit `i` set means index `i` is in the set (R89). -/
abbrev IndexMask := BitVec 16

/-- The leaf's 34-bit op bundle (R87). -/
abbrev Srop := BitVec 34

/-- The chip buffer: cell `i` is bit `i` (R30). -/
abbrev ChipBuffer := BitVec 1023

end Sys2Proof
end

