-- ==== Sys2Proof/Config.lean ====
section
/-! DEFINITION. What is fixed for one instance of the block: the constants the source fixes (R8), the parameters it
leaves open (R9) as plain data, and the two OPEN values as constants without a body. -/

namespace Sys2Proof

namespace Config

/-- `PERIOD`: the code period and the cap on `ITER` (R8). -/
def period : Nat := 1023

/-- `SV_MIN` and `SV_MAX` (R8). -/
def svMin : Nat := 1
def svMax : Nat := 63

/-- `ALIAS_ABOVE` and `BASE_SVS` (R8): IDs above 37 alias onto the 37-entry base table. -/
def baseSvs : Nat := 37

/-- `TAP_MIN` and `TAP_MAX` (R8). -/
def tapMin : Int := 1
def tapMax : Int := 10

/-- `DELAYS`, which the reference table leaves OPEN (R62): no value can be proved of it (log 4). -/
opaque openDelays : List (Nat × Int)

/-- `BASE`, the platform's base address of the register window, OPEN (R9, R163; log 4). -/
opaque openBase : Nat

end Config

/-- `DELAY_FROM`: the first SV ID whose delay is looked up, 38 or 39 (R9, C1). -/
inductive DelayFrom where
  | sv38
  | sv39
  deriving DecidableEq, Repr

/-- The tap/delay/reference table `TAPS` (R57), each keyed column a finite list of key and entry pairs (log 5). -/
structure TapTable where
  /-- `taps.G1` -/
  g1 : Option (List Int)
  /-- `taps.G2` -/
  g2 : Option (List Int)
  /-- `taps.<sv_prn>` -/
  outTaps : List (Nat × List Int)
  /-- `delays.<sv_id>` -/
  delays : List (Nat × Int)
  /-- `first_ten_chips.<sv_id>`, octal digits, never read by the core (R58) -/
  firstTen : List (Nat × String)
  deriving DecidableEq, Repr

/-- The parameters of one instance (R9, R40), bound when the block is instantiated (R173). -/
structure Params where
  /-- `TAPS` -/
  taps : TapTable
  /-- `DELAY_FROM` -/
  delayFrom : DelayFrom
  /-- `DELAY_W`, at most the 32 bits of the DELAY register (log 6) -/
  delayW : Fin 33
  /-- `ADDR_W` -/
  addrW : Nat
  /-- `BASE` -/
  base : Nat
  deriving DecidableEq, Repr

end Sys2Proof
end

