-- ==== Sys2Proof/Syntax.lean ====
section
/-! DEFINITION. The instructions: one constructor per row of spec/opcode_table.json. -/

namespace Sys2Proof

/-- The two CMD commands (R82) and the four SROP ops (R88). The SROP ops that ignore their operand fields keep them
as data (R92), so that every bundle is the encoding of one instruction. -/
inductive Instr where
  /-- PRN.INIT: the SV field is an unsigned number 0..255 (R83). -/
  | prnInit (sv : Nat)
  /-- PRN.NEXT (R84). -/
  | prnNext
  /-- SR.IDLE, `OP = 0b00`, operand fields ignored (R102). -/
  | srIdle (outIdx fbIdx : IndexMask)
  /-- SR.INIT, `OP = 0b01` (R103). -/
  | srInit (outIdx fbIdx : IndexMask)
  /-- SR.STEP, `OP = 0b10`, operand fields ignored (R105). -/
  | srStep (outIdx fbIdx : IndexMask)
  /-- The reserved op SR.RSVD, `OP = 0b11` (R91, R108). -/
  | srRsvd (outIdx fbIdx : IndexMask)
  deriving DecidableEq, Repr

end Sys2Proof
end

