-- ==== Sys2Proof/WellFormed.lean ====
section
/-! DEFINITION. Which terms stand for something the hardware can be given. -/

namespace Sys2Proof

/-- An instruction has an encoding: the SV field of PRN.INIT has 8 bits (R83); the fields of the SROP ops have the
port's width by their type, and every value of them is an encoding (R89, R92). -/
def Instr.wellFormed : Instr → Bool
  | .prnInit sv => decide (sv ≤ 255)
  | .prnNext => true
  | .srIdle _ _ => true
  | .srInit _ _ => true
  | .srStep _ _ => true
  | .srRsvd _ _ => true

/-- Parameters an instance can have: a DELAY register of at least one bit (R9), and a window that holds the register
map, whose last byte is 0x17F (R52). The upper bound on `DELAY_W` and the two values of `DELAY_FROM` are in the types. -/
def Params.wellFormed (p : Params) : Bool :=
  decide (1 ≤ p.delayW.val) && decide (0x180 ≤ 2 ^ p.addrW)

end Sys2Proof
end

