-- ==== Sys2Proof/Decode.lean ====
section
/-! DEFINITION. Decoding (R86, R88), total on every word of either format, rejecting by name; then the encoder (R94),
the opcode table as rows (R96), and the host's numbering of a word. -/

namespace Sys2Proof

/-- A word with the interface it arrives on: a decoder knows the length from the interface (R93). -/
inductive PortWord where
  /-- a 32-bit word written to register CMD -/
  | cmd (w : Word)
  /-- a 34-bit bundle on the leaf's op port -/
  | srop (w : Srop)
  deriving DecidableEq, Repr

/-- Why a CMD word is illegal (R85). All three are reported alike (R131). -/
inductive DecodeError where
  /-- the OPC is not 0x01 or 0x02 -/
  | illegalOpc
  /-- PRN.INIT with a bit of `CMD[23:8]` set (R83) -/
  | initReservedBits
  /-- PRN.NEXT with a bit of `CMD[23:0]` set (R84) -/
  | nextReservedBits
  deriving DecidableEq, Repr

/-- `OPC`, bits 31 to 24 of a CMD word (R81). -/
def cmdOpc (w : Word) : BitVec 8 := w.extractLsb' 24 8

/-- `decode_cmd` (R86); the rejected words are its `CMD_ILLEGAL`. -/
def decodeCmd (w : Word) : Except DecodeError Instr :=
  if cmdOpc w = 0x01#8 then
    if w.extractLsb' 8 16 = 0#16 then .ok (.prnInit (w.extractLsb' 0 8).toNat)
    else .error .initReservedBits
  else if cmdOpc w = 0x02#8 then
    if w.extractLsb' 0 24 = 0#24 then .ok .prnNext
    else .error .nextReservedBits
  else .error .illegalOpc

/-- `OP`, `OUT_IDX` and `FB_IDX` of a bundle (R87). -/
def sropOp (w : Srop) : BitVec 2 := w.extractLsb' 32 2
def sropOutIdx (w : Srop) : IndexMask := w.extractLsb' 16 16
def sropFbIdx (w : Srop) : IndexMask := w.extractLsb' 0 16

/-- The leaf op of a bundle (R88): every bundle is one. -/
def decodeSrop (w : Srop) : Instr :=
  if sropOp w = 0b00#2 then .srIdle (sropOutIdx w) (sropFbIdx w)
  else if sropOp w = 0b01#2 then .srInit (sropOutIdx w) (sropFbIdx w)
  else if sropOp w = 0b10#2 then .srStep (sropOutIdx w) (sropFbIdx w)
  else .srRsvd (sropOutIdx w) (sropFbIdx w)

/-- Decoding of either format. -/
def decode : PortWord → Except DecodeError Instr
  | .cmd w => decodeCmd w
  | .srop w => .ok (decodeSrop w)

/-- The bundle with the given fields (R87). -/
def sropWord (op : BitVec 2) (outIdx fbIdx : IndexMask) : Srop := op ++ outIdx ++ fbIdx

/-- The words of an instruction (R82, R88, R94). -/
def encode : Instr → PortWord
  | .prnInit sv => .cmd (0x01000000#32 ||| (BitVec.ofNat 8 sv).setWidth 32)
  | .prnNext => .cmd 0x02000000#32
  | .srIdle o f => .srop (sropWord 0b00#2 o f)
  | .srInit o f => .srop (sropWord 0b01#2 o f)
  | .srStep o f => .srop (sropWord 0b10#2 o f)
  | .srRsvd o f => .srop (sropWord 0b11#2 o f)

/-- The formats of the opcode table (R80). -/
inductive Format where
  | cmd
  | srop
  deriving DecidableEq, Repr

/-- A row of the opcode table: `match` and `mask` over the width of its format (R96). -/
structure OpcodeRow where
  mnemonic : String
  format : Format
  pattern : Nat
  mask : Nat
  deriving DecidableEq, Repr

/-- The rows of spec/opcode_table.json. -/
def opcodeTable : List OpcodeRow := [
  { mnemonic := "PRN.INIT", format := .cmd, pattern := 0x01000000, mask := 0xFFFFFF00 },
  { mnemonic := "PRN.NEXT", format := .cmd, pattern := 0x02000000, mask := 0xFFFFFFFF },
  { mnemonic := "SR.IDLE", format := .srop, pattern := 0x000000000, mask := 0x300000000 },
  { mnemonic := "SR.INIT", format := .srop, pattern := 0x100000000, mask := 0x300000000 },
  { mnemonic := "SR.STEP", format := .srop, pattern := 0x200000000, mask := 0x300000000 },
  { mnemonic := "SR.RSVD", format := .srop, pattern := 0x300000000, mask := 0x300000000 }]

/-- A row matches a word of its own format whose masked bits are the row's pattern. -/
def OpcodeRow.matchesWord (r : OpcodeRow) : PortWord → Bool
  | .cmd w => decide (r.format = .cmd) && decide (w &&& BitVec.ofNat 32 r.mask = BitVec.ofNat 32 r.pattern)
  | .srop w => decide (r.format = .srop) && decide (w &&& BitVec.ofNat 34 r.mask = BitVec.ofNat 34 r.pattern)

/-- The mnemonic of an instruction's row. -/
def Instr.mnemonic : Instr → String
  | .prnInit _ => "PRN.INIT"
  | .prnNext => "PRN.NEXT"
  | .srIdle _ _ => "SR.IDLE"
  | .srInit _ _ => "SR.INIT"
  | .srStep _ _ => "SR.STEP"
  | .srRsvd _ _ => "SR.RSVD"

/-- The word whose bits are `w`, by the table's count of its bits: up to 32 it is a CMD word, above that an SROP bundle
(34 bits, 40 in whole bytes); `none` where `w` has a bit above its format's width (log 19). -/
def tablePortWord (nbits w : Nat) : Option PortWord :=
  if nbits ≤ 32 then
    if w < 2 ^ 32 then some (.cmd (BitVec.ofNat 32 w)) else none
  else
    if w < 2 ^ 34 then some (.srop (BitVec.ofNat 34 w)) else none

/-- The instruction the decoder reads from the word whose bits are `w`. -/
def decodeTableWord (nbits w : Nat) : Option Instr :=
  match tablePortWord nbits w with
  | none => none
  | some pw =>
    match decode pw with
    | .ok i => some i
    | .error _ => none

end Sys2Proof
end

