-- ==== Sys2Proof/Machine/Bits.lean ====
section
/-! DEFINITION. The bit-level primitives of 00_scope.md: stages, modulo-2 sums, byte lanes, and the chip buffer's cells. -/

namespace Sys2Proof.Machine

/-- The initial fill, all ones (R8, R26). -/
def initialFill : Stages := 0x3FF#10

/-- G1's fixed output taps, stage 10 alone (R8, R28). -/
def g1OutTaps : Stages := 0x200#10

/-- `stage(s, k) = s[k-1]`, for `k` in 1..10 (R11). -/
def stage (s : Stages) (k : Nat) : Bool := s.getLsbD (k - 1)

/-- The XOR of all bits (R12). -/
def parity {w : Nat} (v : BitVec w) : Bool :=
  (List.range w).foldl (fun acc i => acc ^^ v.getLsbD i) false

/-- The modulo-2 sum of the stages of `s` that `m` selects (R12). -/
def xorsum (s m : Stages) : Bool := parity (s &&& m)

/-- One bit as a word of any width. -/
def bitWord (w : Nat) (b : Bool) : BitVec w := (BitVec.ofBool b).setWidth w

/-- Byte lane `j` of a register word, lane 0 at the lowest byte address (R53). -/
def byteLane (v : Word) (j : Nat) : BitVec 8 := v.extractLsb' (8 * j) 8

/-- `CHIPS[i]`; an index above 1022 is no cell and reads 0 (R37, R63). -/
def chipCell (chips : ChipBuffer) (i : Nat) : Bool := chips.getLsbD i

/-- The buffer with cell `i` replaced. -/
def setChipCell (chips : ChipBuffer) (i : Nat) (c : Bool) : ChipBuffer :=
  (chips &&& ~~~(BitVec.twoPow 1023 i)) ||| (bitWord 1023 c <<< i)

/-- The word CHIPSw (R63): bit `b` is cell `32 * w + b`, and the index 1023 reads 0. -/
def chipsWord (chips : ChipBuffer) (w : Nat) : Word := chips.extractLsb' (32 * w) 32

end Sys2Proof.Machine
end

