-- ==== Sys2Proof/Machine/Reference.lean ====
section
/-! DEFINITION. The reference instance of the tap table (R59, R60, R61), which the spec marks as general knowledge, and
the default parameters (R9). PRESUMED contents, log 3; the delays are a parameter, log 4. -/

namespace Sys2Proof.Machine

/-- `taps.<n>` for n = 1..37 (R60), in four pieces. -/
def refOutTaps1 : List (Nat × List Int) :=
  [(1, [2, 6]), (2, [3, 7]), (3, [4, 8]), (4, [5, 9]), (5, [1, 9]), (6, [2, 10]), (7, [1, 8]), (8, [2, 9]),
   (9, [3, 10]), (10, [2, 3])]
def refOutTaps2 : List (Nat × List Int) :=
  [(11, [3, 4]), (12, [5, 6]), (13, [6, 7]), (14, [7, 8]), (15, [8, 9]), (16, [9, 10]), (17, [1, 4]), (18, [2, 5]),
   (19, [3, 6]), (20, [4, 7])]
def refOutTaps3 : List (Nat × List Int) :=
  [(21, [5, 8]), (22, [6, 9]), (23, [1, 3]), (24, [4, 6]), (25, [5, 7]), (26, [6, 8]), (27, [7, 9]), (28, [8, 10]),
   (29, [1, 6]), (30, [2, 7])]
def refOutTaps4 : List (Nat × List Int) :=
  [(31, [3, 8]), (32, [4, 9]), (33, [5, 10]), (34, [4, 10]), (35, [1, 7]), (36, [2, 8]), (37, [4, 10])]

/-- `first_ten_chips.<n>` for n = 1..37 (R61), in four pieces. -/
def refFirstTen1 : List (Nat × String) :=
  [(1, "1440"), (2, "1620"), (3, "1710"), (4, "1744"), (5, "1133"), (6, "1455"), (7, "1131"), (8, "1454"),
   (9, "1626"), (10, "1504")]
def refFirstTen2 : List (Nat × String) :=
  [(11, "1642"), (12, "1750"), (13, "1764"), (14, "1772"), (15, "1775"), (16, "1776"), (17, "1156"), (18, "1467"),
   (19, "1633"), (20, "1715")]
def refFirstTen3 : List (Nat × String) :=
  [(21, "1746"), (22, "1763"), (23, "1063"), (24, "1706"), (25, "1743"), (26, "1761"), (27, "1770"), (28, "1774"),
   (29, "1127"), (30, "1453")]
def refFirstTen4 : List (Nat × String) :=
  [(31, "1625"), (32, "1712"), (33, "1745"), (34, "1713"), (35, "1134"), (36, "1456"), (37, "1713")]

/-- The reference table with a given delay column (R59 to R62). -/
def referenceTaps (delays : List (Nat × Int)) : TapTable where
  g1 := some [3, 10]
  g2 := some [2, 3, 6, 8, 9, 10]
  outTaps := refOutTaps1 ++ refOutTaps2 ++ refOutTaps3 ++ refOutTaps4
  delays := delays
  firstTen := refFirstTen1 ++ refFirstTen2 ++ refFirstTen3 ++ refFirstTen4

/-- The defaults of R9; `DELAYS` and `BASE` are OPEN. -/
def defaultParams : Params where
  taps := referenceTaps Config.openDelays
  delayFrom := .sv39
  delayW := 10
  addrW := 12
  base := Config.openBase

end Sys2Proof.Machine
end

