-- ==== Sys2Proof/Machine/State.lean ====
section
/-! DEFINITION. The state of the block as plain data (10_state.md), the operations the outside world presents
(70_reset_and_hazards.md R180), and the reasons a step can stop. -/

namespace Sys2Proof.Machine

/-- The leaf's result codes (R151); codes 1, 5, 6 and 7 are never produced (log 11). -/
inductive LeafErr where
  | none
  | config
  | notConfigured
  | illegal
  deriving DecidableEq, Repr

/-- The top's result codes (R150); codes 6 to 15 are never produced (log 11). -/
inductive TopErr where
  | none
  | range
  | config
  | notConfigured
  | illegal
  | access
  deriving DecidableEq, Repr

/-- A leaf (R20). -/
structure Leaf where
  /-- `S`: stage k is bit k-1 (R21) -/
  s : Stages
  /-- `FBM`, the feedback-tap mask (R22) -/
  fbm : Stages
  /-- `OUTM`, the output-tap mask (R22) -/
  outm : Stages
  /-- `CFG` (R23) -/
  cfg : Bool
  /-- `ERR` (R24) -/
  err : LeafErr
  /-- `OV` (R24) -/
  ov : Bool
  /-- `OB` (R24) -/
  ob : Bool
  deriving DecidableEq, Repr

/-- The top (R27). `EXH` is not stored (R36). -/
structure Top where
  /-- the leaf instance G1, its internal `CFG`, `ERR`, `OV` and `OB` included -/
  g1 : Leaf
  /-- the leaf instance G2 -/
  g2 : Leaf
  /-- `ITER` (R29) -/
  iter : BitVec 11
  /-- `CHIPS` (R30, R31) -/
  chips : ChipBuffer
  /-- `CFG` (R34) -/
  cfg : Bool
  /-- `SV` (R32) -/
  sv : BitVec 6
  /-- `SVPRN` (R32) -/
  svPrn : BitVec 6
  /-- `DLYV` (R33) -/
  dlyv : Bool
  /-- `DELAY` (R33): the low `DELAY_W` bits of the register word (log 6) -/
  delay : Word
  /-- `ERR` (R35) -/
  err : TopErr
  /-- `ERR_ANY` (R35) -/
  errAny : Bool
  /-- `VALID` (R35) -/
  valid : Bool
  /-- `CHIP` (R35) -/
  chip : Bool
  deriving DecidableEq, Repr

/-- One host bus access to the register window (R14): the byte address is relative to the window, the width is in
bytes. Accesses of every width and address can be presented; R54 says which are admitted. -/
inductive Access where
  | read (addr width : Nat)
  | write (addr width : Nat) (value : Word)
  deriving DecidableEq, Repr

/-- What the outside world can do to the block (R180, R19): one leaf op, one bus access, or a reset of the leaf or of
the top, which may overlap an operation in progress (R171). -/
inductive Operation where
  | leafOp (bundle : Srop)
  | leafReset (overlapped : Option Srop)
  | bus (access : Access)
  | topReset (overlapped : Option Access)
  deriving DecidableEq, Repr

/-- The bus's answer to an access: the data of a read, and the bus-error response (R55, log 8). -/
structure BusResponse where
  data : Option Word
  error : Bool
  deriving DecidableEq, Repr

/-- The block: a standalone leaf and a top, which share nothing (R69, log 13), the instance's parameters (R40, log 2),
and the model's own two fields, the operations presented and not yet performed, oldest first (log 1), and the answer to
the last access (log 8). -/
structure State where
  leaf : Leaf
  top : Top
  params : Params
  pending : List Operation
  response : Option BusResponse
  deriving DecidableEq, Repr

/-- Why a step stops with a fault: never. Every error of this block is a result code (R157) and the block never halts
(R179), so no meaning raises a fault and the type has no constructor. Safe: there is no faulting run to reason from. -/
inductive Fault where
  deriving DecidableEq, Repr

/-- Why a step is refused. -/
inductive Refusal where
  /-- Raised by an arm of `exec` whose instruction has no meaning yet; no arm raises it. Safe: nothing follows from it. -/
  | notModelled (mnemonic : String)
  deriving DecidableEq, Repr

/-- The leaf right after reset (R26). -/
def Leaf.reset : Leaf where
  s := initialFill
  fbm := 0
  outm := 0
  cfg := false
  err := .none
  ov := false
  ob := false

/-- The top right after reset (R41). -/
def Top.reset : Top where
  g1 := Leaf.reset
  g2 := Leaf.reset
  iter := 0
  chips := 0
  cfg := false
  sv := 0
  svPrn := 0
  dlyv := false
  delay := 0
  err := .none
  errAny := false
  valid := false
  chip := false

/-- The block instantiated with parameters and reset (R173 steps 1 and 2, R180). -/
def State.instantiate (p : Params) : State where
  leaf := Leaf.reset
  top := Top.reset
  params := p
  pending := []
  response := none

/-- The block right after reset, with the default parameters of R9. -/
def State.reset : State := State.instantiate defaultParams

/-- Replace the standalone leaf. -/
def State.setLeaf (s : State) (l : Leaf) : State := { s with leaf := l }

/-- Replace the top. -/
def State.setTop (s : State) (t : Top) : State := { s with top := t }

/-- Take the operation being performed off the list. -/
def State.setPending (s : State) (ops : List Operation) : State := { s with pending := ops }

/-- Answer an access. -/
def State.answer (s : State) (r : Option BusResponse) : State := { s with response := r }

end Sys2Proof.Machine
end

