-- ==== Sys2Proof/Machine/Flags.lean ====
section
/-! DEFINITION. Result codes, the STATUS word, and the leaf's output ports. -/

namespace Sys2Proof.Machine

/-- The 4-bit code of the top's `ERR` (R150). -/
def TopErr.code : TopErr → BitVec 4
  | .none => 0
  | .range => 1
  | .config => 2
  | .notConfigured => 3
  | .illegal => 4
  | .access => 5

/-- The 3-bit code of the leaf's `ERR` (R151). -/
def LeafErr.code : LeafErr → BitVec 3
  | .none => 0
  | .config => 2
  | .notConfigured => 3
  | .illegal => 4

/-- `EXH = (ITER == 1023)` (R36). -/
def Top.exhausted (t : Top) : Bool := t.iter == 1023#11

/-- The STATUS word `{ERR_ANY, ERR[3:0], CHIP, VALID, EXH, CFG}` (R37, R132). -/
def statusWord (t : Top) : Word :=
  (BitVec.ofBool t.errAny ++ t.err.code ++ BitVec.ofBool t.chip ++ BitVec.ofBool t.valid
    ++ BitVec.ofBool t.exhausted ++ BitVec.ofBool t.cfg).setWidth 32

/-- A command that ends without an error: `ERR` is NONE and `ERR_ANY` stays (R153). -/
def Top.succeed (t : Top) (valid chip : Bool) : Top := { t with err := .none, valid := valid, chip := chip }

/-- A leaf op that ends without an error. -/
def Leaf.succeed (l : Leaf) (ov ob : Bool) : Leaf := { l with err := .none, ov := ov, ob := ob }

/-- The leaf's output ports (R25, R100). -/
structure LeafPorts where
  state_o : BitVec 10
  cfg_o : BitVec 1
  err_o : BitVec 3
  ov_o : BitVec 1
  ob_o : BitVec 1
  deriving DecidableEq, Repr

/-- The leaf drives its state onto its ports without delay (R25). -/
def Leaf.ports (l : Leaf) : LeafPorts where
  state_o := l.s
  cfg_o := BitVec.ofBool l.cfg
  err_o := l.err.code
  ov_o := BitVec.ofBool l.ov
  ob_o := BitVec.ofBool l.ob

end Sys2Proof.Machine
end

