-- ==== Sys2Proof/Machine/Operands.lean ====
section
/-! DEFINITION. Operands: index masks (R89, R90), the tap table's lookups (R57), and what PRN.INIT resolves (R121,
R122). -/

namespace Sys2Proof.Machine

/-- An index mask names only the indices 1..10 (R89, R103). -/
def validIndexMask (m : IndexMask) : Bool :=
  decide (m.getLsbD 0 = false) && decide (m.extractLsb' 11 5 = 0#5)

/-- `stagemask(M) = M[10:1]` of an index mask (R90). -/
def stageMaskOfIndexMask (m : IndexMask) : Stages := m.extractLsb' 1 10

/-- Every element of a table list is in [1,10] (R122). -/
def tapsInRange (l : List Int) : Bool :=
  l.all fun x => decide (Config.tapMin ≤ x) && decide (x ≤ Config.tapMax)

/-- `stagemask(L)` of a table list (R90): bit `k - 1` is set exactly when `k` is in the list. Order and repetition are
dropped (log 12). -/
def stageMaskOfList (l : List Int) : Stages :=
  (List.range 10).foldl (fun m j => if ((j + 1 : Nat) : Int) ∈ l then m ||| BitVec.twoPow 10 j else m) 0#10

/-- `Table.lookup` of `taps.<n>`, `delays.<n>` and `first_ten_chips.<n>` (R57): the entry of the key, if the table holds
the key. -/
def outTapsAt (t : TapTable) (n : Nat) : Option (List Int) := t.outTaps.lookup n
def delayAt (t : TapTable) (n : Nat) : Option Int := t.delays.lookup n
def firstTenAt (t : TapTable) (n : Nat) : Option String := t.firstTen.lookup n

/-- The first SV ID whose delay is looked up (R9). -/
def firstDelaySv : DelayFrom → Nat
  | .sv38 => 38
  | .sv39 => 39

/-- `sv_prn` (R121). -/
def svPrnOf (v : Nat) : Nat := if v > Config.baseSvs then v - Config.baseSvs else v

/-- What PRN.INIT takes from the table: `Ok(p, m1, m2, o2, dv, d)` of R122. -/
structure Resolution where
  svPrn : Nat
  g1Fbm : Stages
  g2Fbm : Stages
  g2Outm : Stages
  dlyv : Bool
  delay : Nat
  deriving DecidableEq, Repr

/-- The check of `taps.G1` and `taps.G2` (R122): present, and every index in range. -/
def resolveFeedback (e : Option (List Int)) : Except TopErr Stages :=
  match e with
  | none => .error .config
  | some l => if tapsInRange l then .ok (stageMaskOfList l) else .error .config

/-- The check of `taps.<p>` (R122): present, a pair, and every index in range. -/
def resolveOutputPair (e : Option (List Int)) : Except TopErr Stages :=
  match e with
  | none => .error .config
  | some l => if l.length = 2 ∧ tapsInRange l then .ok (stageMaskOfList l) else .error .config

/-- The delay of SV `v` (R122): looked up from `DELAY_FROM` on, and then present and in `[0, 2^DELAY_W)`. -/
def resolveDelay (p : Params) (v : Nat) : Except TopErr (Bool × Nat) :=
  if firstDelaySv p.delayFrom ≤ v then
    match delayAt p.taps v with
    | none => .error .config
    | some d => if 0 ≤ d ∧ d < 2 ^ p.delayW.val then .ok (true, d.toNat) else .error .config
  else .ok (false, 0)

/-- `resolve(v)` (R122), with the checks in the order written there (R155). -/
def resolve (p : Params) (v : Nat) : Except TopErr Resolution :=
  if v < Config.svMin ∨ v > Config.svMax then .error .range
  else
    match resolveFeedback p.taps.g1 with
    | .error e => .error e
    | .ok m1 =>
      match resolveFeedback p.taps.g2 with
      | .error e => .error e
      | .ok m2 =>
        match resolveOutputPair (outTapsAt p.taps (svPrnOf v)) with
        | .error e => .error e
        | .ok o2 =>
          match resolveDelay p v with
          | .error e => .error e
          | .ok (dv, d) =>
            .ok { svPrn := svPrnOf v, g1Fbm := m1, g2Fbm := m2, g2Outm := o2, dlyv := dv, delay := d }

/-- The reader of a `first_ten_chips` string (R61): octal digits as a number, then ten binary digits, the most
significant first, digit `i` being chip `i`. For validation only: the core never reads these entries (R58). -/
def octalValue (digits : String) : Nat := digits.toList.foldl (fun acc c => 8 * acc + (c.toNat - '0'.toNat)) 0
def firstTenChips (digits : String) : List Bool := (List.range 10).map fun i => (octalValue digits).testBit (9 - i)

end Sys2Proof.Machine
end

