-- ==== Sys2Proof/Machine/Ops.lean ====
section
/-! DEFINITION. The shared operations: the LFSR step, error reporting, configuring and un-configuring, and the host's
register window. -/

namespace Sys2Proof.Machine

/-! ### The LFSR step (R101) -/

/-- Output phase: the modulo-2 sum of the output taps. -/
def lfsrOut (s outm : Stages) : Bool := xorsum s outm

/-- Feedback phase: the bit that becomes the new stage 1. -/
def lfsrFb (s fbm : Stages) : Bool := xorsum s fbm

/-- `((S << 1) & 0x3FF) | f`: stage 10 leaves, `f` enters at stage 1. The mask is the width. -/
def lfsrShift (s : Stages) (f : Bool) : Stages := (s <<< 1) ||| bitWord 10 f

/-- The output bit and the new stages, both computed from the pre-step stages (R107, R175). -/
def lfsrStep (s fbm outm : Stages) : Bool × Stages := (lfsrOut s outm, lfsrShift s (lfsrFb s fbm))

/-- The code combiner, the modulo-2 adder (R127). -/
def combine (a b : Bool) : Bool := a ^^ b

/-! ### Error reporting, this block's form of an exception (R152, R157)

An error saves nothing, changes no mode and transfers no control; it is reported in the result fields. There is no
return from it (R158). -/

/-- A leaf op that raises `e`. -/
def Leaf.raise (l : Leaf) (e : LeafErr) : Leaf := { l with err := e, ov := false, ob := false }

/-- A top command that raises `e`. -/
def Top.raise (t : Top) (e : TopErr) : Top := { t with err := e, errAny := true, valid := false, chip := false }

/-- A refused bus access: `VALID` and `CHIP` stay (R55). -/
def Top.refuse (t : Top) : Top := { t with err := .access, errAny := true }

/-! ### Configuring and stepping a leaf -/

/-- The stages refilled and the masks replaced by a successful SR.INIT (R103). -/
def Leaf.configure (l : Leaf) (fbm outm : Stages) : Leaf :=
  { l with s := initialFill, fbm := fbm, outm := outm, cfg := true }.succeed false false

/-- The unconfigured leaf a failed SR.INIT leaves (R104). -/
def Leaf.unconfigure (l : Leaf) (e : LeafErr) : Leaf :=
  { l with s := initialFill, fbm := 0, outm := 0, cfg := false }.raise e

/-- One step of a leaf: the pre-step output bit is reported and the stages advance (R105). -/
def Leaf.advance (l : Leaf) : Leaf :=
  { l with s := (lfsrStep l.s l.fbm l.outm).2 }.succeed true (lfsrStep l.s l.fbm l.outm).1

/-! ### Configuring and stepping the top -/

/-- The top a successful PRN.INIT leaves (R123): both leaves configured as SR.INIT does (R42), a fresh period. -/
def Top.configure (t : Top) (sv : Nat) (r : Resolution) : Top :=
  { t with
    g1 := t.g1.configure r.g1Fbm g1OutTaps
    g2 := t.g2.configure r.g2Fbm r.g2Outm
    iter := 0
    chips := 0
    cfg := true
    sv := BitVec.ofNat 6 sv
    svPrn := BitVec.ofNat 6 r.svPrn
    dlyv := r.dlyv
    delay := BitVec.ofNat 32 r.delay }.succeed false false

/-- The unconfigured top a failed PRN.INIT leaves (R124): the reset values (R41; for the leaves' internal fields log 9),
and the error reported. -/
def Top.unconfigure (t : Top) (e : TopErr) : Top := { Top.reset with errAny := t.errAny }.raise e

/-- A chip-producing PRN.NEXT (R126): both leaves advance once from their pre-step stages (R176), the combined bit is
stored at `ITER`, and `ITER` counts it. -/
def Top.produceChip (t : Top) : Top :=
  let c := combine (lfsrStep t.g1.s t.g1.fbm t.g1.outm).1 (lfsrStep t.g2.s t.g2.fbm t.g2.outm).1
  { t with
    g1 := t.g1.advance
    g2 := t.g2.advance
    chips := setChipCell t.chips t.iter.toNat c
    iter := t.iter + 1 }.succeed true c

/-! ### The host register window (R50 to R55, R132) -/

/-- The registers of the window (R52). -/
inductive HostReg where
  | cmd
  | status
  | svid
  | delay
  | iter
  | g1State
  | g2State
  | g1Taps
  | g2Taps
  | chips (w : Fin 32)
  deriving DecidableEq, Repr

/-- The byte address of a register (R52). -/
def HostReg.addr : HostReg → Nat
  | .cmd => 0x000
  | .status => 0x004
  | .svid => 0x008
  | .delay => 0x00C
  | .iter => 0x010
  | .g1State => 0x014
  | .g2State => 0x018
  | .g1Taps => 0x01C
  | .g2Taps => 0x020
  | .chips w => 0x100 + 4 * w.val

/-- The register a byte address names, if any (R51, R52). -/
def hostRegAt (a : Nat) : Option HostReg :=
  if a = 0x000 then some .cmd
  else if a = 0x004 then some .status
  else if a = 0x008 then some .svid
  else if a = 0x00C then some .delay
  else if a = 0x010 then some .iter
  else if a = 0x014 then some .g1State
  else if a = 0x018 then some .g2State
  else if a = 0x01C then some .g1Taps
  else if a = 0x020 then some .g2Taps
  else if 0x100 ≤ a ∧ a ≤ 0x17C ∧ a % 4 = 0 then some (.chips (Fin.ofNat 32 ((a - 0x100) / 4)))
  else none

/-- A taps word `{OUTM, 6'b0, FBM}` (R132). -/
def tapsWord (l : Leaf) : Word := (l.outm ++ 0#6 ++ l.fbm).setWidth 32

/-- The DELAY word: the low `DELAY_W` bits, the others reserved and 0 (R37). -/
def delayWord (p : Params) (t : Top) : Word := BitVec.ofNat 32 (t.delay.toNat % 2 ^ p.delayW.val)

/-- The value a read of a register returns (R37, R132); reading has no side effect (R56). -/
def readHostReg (p : Params) (t : Top) : HostReg → Word
  | .cmd => 0
  | .status => statusWord t
  | .svid => (BitVec.ofBool t.dlyv ++ 0#2 ++ t.svPrn ++ 0#2 ++ t.sv).setWidth 32
  | .delay => delayWord p t
  | .iter => t.iter.setWidth 32
  | .g1State => t.g1.s.setWidth 32
  | .g2State => t.g2.s.setWidth 32
  | .g1Taps => tapsWord t.g1
  | .g2Taps => tapsWord t.g2
  | .chips w => chipsWord t.chips w.val

/-- The register an admitted access reaches (R54): 4 bytes wide, aligned, inside the window and named in R52. -/
def addressedReg (p : Params) (addr width : Nat) : Option HostReg :=
  if width = 4 ∧ addr % 4 = 0 ∧ addr < 2 ^ p.addrW then hostRegAt addr else none

/-- A refused read or write (R55): data 0 for a read, a bus error, and the error report. -/
def State.refuseRead (s : State) : State := (s.setTop s.top.refuse).answer (some { data := some 0, error := true })
def State.refuseWrite (s : State) : State := (s.setTop s.top.refuse).answer (some { data := none, error := true })

/-- An admitted read (R132). -/
def State.answerRead (s : State) (r : HostReg) : State :=
  s.answer (some { data := some (readHostReg s.params s.top r), error := false })

/-- An illegal command word (R131). -/
def State.illegalCommand (s : State) : State := s.setTop (s.top.raise .illegal)

/-! ### Reset (R170, R171) -/

/-- Reset of the standalone leaf. The operation it overlaps, if any, has no effect. -/
def State.resetLeaf (s : State) (_overlapped : Option Srop) : State := s.setLeaf Leaf.reset

/-- Reset of the top, which resets its leaves too. The access it overlaps, if any, has no effect and no answer (log 8).
The parameters stay. -/
def State.resetTop (s : State) (_overlapped : Option Access) : State := (s.setTop Top.reset).answer none

end Sys2Proof.Machine
end

