-- ==== Sys2Proof/Machine/Bus.lean ====
section
/-! DEFINITION. How the next pending operation is performed: which instruction it carries to `exec`, or what it does
itself. -/

namespace Sys2Proof.Machine

/-- What the next operation asks for: run an instruction in a state, or nothing more than a state already reached. -/
inductive Fetched where
  | run (i : Instr) (s : State)
  | done (s : State)
  deriving DecidableEq, Repr

/-- The answer to an admitted write: no data, no error (log 8). -/
def State.answerWrite (s : State) : State := s.answer (some { data := none, error := false })

/-- A write to CMD (R133): the decoded command runs, an illegal word is reported (R131). -/
def fetchCommand (w : Word) (s : State) : Fetched :=
  match decode (.cmd w) with
  | .ok i => .run i s.answerWrite
  | .error _ => .done s.answerWrite.illegalCommand

/-- An access (R54, R55): a read is admitted to every named register, a write only to CMD. -/
def fetchAccess (a : Access) (s : State) : Fetched :=
  match a with
  | .read addr width =>
    match addressedReg s.params addr width with
    | some r => .done (s.answerRead r)
    | none => .done s.refuseRead
  | .write addr width v =>
    if addressedReg s.params addr width = some .cmd then fetchCommand v s else .done s.refuseWrite

/-- A bundle on the leaf's op port (R100): every bundle is an op. -/
def fetchLeafOp (w : Srop) (s : State) : Fetched :=
  match decode (.srop w) with
  | .ok i => .run i s
  | .error _ => .done s

/-- Perform one operation (R64, R100, R170). -/
def fetchOperation (op : Operation) (s : State) : Fetched :=
  match op with
  | .leafOp w => fetchLeafOp w s
  | .leafReset o => .done (s.resetLeaf o)
  | .bus a => fetchAccess a s
  | .topReset o => .done (s.resetTop o)

/-- Take the oldest pending operation. With none pending the block holds its state (R166). -/
def fetch (s : State) : Fetched :=
  match s.pending with
  | [] => .done s
  | op :: rest => fetchOperation op (s.setPending rest)

/-- The operation that presents a word to the interface it belongs to: a CMD word is a 4-byte write to CMD (R133), a
bundle is a leaf op. -/
def operationOf : PortWord → Operation
  | .cmd w => .bus (.write HostReg.cmd.addr 4 w)
  | .srop w => .leafOp w

/-- The operation of the word whose bits are `w`, by the table's count of its bits (log 19). -/
def tableOperation (nbits w : Nat) : Operation :=
  if nbits ≤ 32 then operationOf (.cmd (BitVec.ofNat 32 w)) else operationOf (.srop (BitVec.ofNat 34 w))

/-- The platform address of a window address: the host adds `BASE` (R163). -/
def platformAddress (p : Params) (addr : Nat) : Nat := p.base + addr

/-- The access a platform access is to this block, if its address is in the block's window. -/
def Access.ofPlatform (p : Params) (a : Access) : Option Access :=
  match a with
  | .read addr width => if p.base ≤ addr ∧ addr < p.base + 2 ^ p.addrW then some (.read (addr - p.base) width) else none
  | .write addr width v =>
    if p.base ≤ addr ∧ addr < p.base + 2 ^ p.addrW then some (.write (addr - p.base) width v) else none

end Sys2Proof.Machine
end

