-- ==== Sys2Proof/Machine/Leaf.lean ====
section
/-! DEFINITION. The meanings of the leaf's ops (40_lfsr.md) on the standalone leaf. -/

namespace Sys2Proof.Machine

/-- SR.IDLE (R102): nothing changes, and the operand fields are ignored (R92). -/
def execSrIdle (_outIdx _fbIdx : IndexMask) (s : State) : Host.Outcome State Fault Refusal := .next s

/-- SR.INIT (R103, R104). -/
def execSrInit (outIdx fbIdx : IndexMask) (s : State) : Host.Outcome State Fault Refusal :=
  if validIndexMask fbIdx ∧ validIndexMask outIdx then
    .next (s.setLeaf (s.leaf.configure (stageMaskOfIndexMask fbIdx) (stageMaskOfIndexMask outIdx)))
  else .next (s.setLeaf (s.leaf.unconfigure .config))

/-- SR.STEP (R105, R106). -/
def execSrStep (_outIdx _fbIdx : IndexMask) (s : State) : Host.Outcome State Fault Refusal :=
  if s.leaf.cfg then .next (s.setLeaf s.leaf.advance)
  else .next (s.setLeaf (s.leaf.raise .notConfigured))

/-- The reserved op (R91, R108). -/
def execSrRsvd (_outIdx _fbIdx : IndexMask) (s : State) : Host.Outcome State Fault Refusal :=
  .next (s.setLeaf (s.leaf.raise .illegal))

end Sys2Proof.Machine
end

