-- ==== Sys2Proof/Machine/Random.lean ====
section
/-! DEFINITION. The meanings of the top's commands (41_prn.md). -/

namespace Sys2Proof.Machine

/-- PRN.INIT (R123, R124, R125). -/
def execPrnInit (sv : Nat) (s : State) : Host.Outcome State Fault Refusal :=
  match resolve s.params sv with
  | .error e => .next (s.setTop (s.top.unconfigure e))
  | .ok r => .next (s.setTop (s.top.configure sv r))

/-- PRN.NEXT (R126, R128, R129). -/
def execPrnNext (s : State) : Host.Outcome State Fault Refusal :=
  if s.top.cfg = false then .next (s.setTop (s.top.raise .notConfigured))
  else if 1023 ≤ s.top.iter.toNat then .next (s.setTop (s.top.succeed false false))
  else .next (s.setTop s.top.produceChip)

end Sys2Proof.Machine
end

