-- ==== Sys2Proof/Machine/Dispatch.lean ====
section
/-! DEFINITION. One arm per instruction. -/

namespace Sys2Proof.Machine

def exec (i : Instr) (s : State) : Host.Outcome State Fault Refusal :=
  match i with
  -- the top's commands
  | .prnInit sv => Sys2Proof.Machine.execPrnInit sv s
  | .prnNext => Sys2Proof.Machine.execPrnNext s
  -- the leaf's ops
  | .srIdle outIdx fbIdx => Sys2Proof.Machine.execSrIdle outIdx fbIdx s
  | .srInit outIdx fbIdx => Sys2Proof.Machine.execSrInit outIdx fbIdx s
  | .srStep outIdx fbIdx => Sys2Proof.Machine.execSrStep outIdx fbIdx s
  | .srRsvd outIdx fbIdx => Sys2Proof.Machine.execSrRsvd outIdx fbIdx s

end Sys2Proof.Machine
end

