-- ==== Sys2Proof/Machine/Step.lean ====
section
/-! DEFINITION. One step: the oldest pending operation, performed whole (R64). -/

namespace Sys2Proof.Machine

/-- One operation of the block. -/
def step (s : State) : Host.Outcome State Fault Refusal :=
  match fetch s with
  | .run i s' => exec i s'
  | .done s' => .next s'

/-- Present a word as the very next operation (log 1). -/
def State.withFetchWord (s : State) (nbits w : Nat) : State := s.setPending (tableOperation nbits w :: s.pending)

end Sys2Proof.Machine
end

