-- ==== Sys2Proof/Machine/Assembler.lean ====
section
/-! DEFINITION. The assembler lines and pseudo-instructions of 30_encoding.md R94 and R95, expanded to operations. -/

namespace Sys2Proof.Machine

/-- The lines of R94 and R95. In `srInit` the feedback set comes first (R94). -/
inductive AsmLine where
  | prnInit (sv : Nat)
  | prnNext
  | wr (addr : Nat) (value : Word)
  | rdName (r : HostReg)
  | rd (addr : Nat)
  | srIdle
  | srInit (fb out : List Nat)
  | srStep
  | prnRun (n : Nat)
  | rdChip (i : Nat)
  | srRun (n : Nat)
  | nop
  deriving DecidableEq, Repr

/-- The ranges R94 and R95 give the operands. -/
def AsmLine.wellFormed : AsmLine → Bool
  | .prnInit sv => decide (sv ≤ 255)
  | .srInit fb out => fb.all (fun i => decide (i ≤ 15)) && out.all (fun i => decide (i ≤ 15))
  | .rdChip i => decide (i ≤ 1022)
  | .prnNext => true
  | .wr _ _ => true
  | .rdName _ => true
  | .rd _ => true
  | .srIdle => true
  | .srStep => true
  | .prnRun _ => true
  | .srRun _ => true
  | .nop => true

/-- The index mask of a set of indices (R89). -/
def indexMaskOf (l : List Nat) : IndexMask :=
  (List.range 16).foldl (fun m i => if i ∈ l then m ||| BitVec.twoPow 16 i else m) 0#16

/-- The operation of an instruction. -/
def instrOperation (i : Instr) : Operation := operationOf (encode i)

/-- The address of the word that holds chip `i` (R63). -/
def chipAddr (i : Nat) : Nat := 0x100 + 4 * (i / 32)

/-- The operations of a line (R94, R95). -/
def assemble : AsmLine → List Operation
  | .prnInit sv => [instrOperation (.prnInit sv)]
  | .prnNext => [instrOperation .prnNext]
  | .wr addr value => [.bus (.write addr 4 value)]
  | .rdName r => [.bus (.read r.addr 4)]
  | .rd addr => [.bus (.read addr 4)]
  | .srIdle => [instrOperation (.srIdle 0 0)]
  | .srInit fb out => [instrOperation (.srInit (indexMaskOf out) (indexMaskOf fb))]
  | .srStep => [instrOperation (.srStep 0 0)]
  | .prnRun n => List.replicate n (instrOperation .prnNext)
  | .rdChip i => [.bus (.read (chipAddr i) 4)]
  | .srRun n => List.replicate n (instrOperation (.srStep 0 0))
  | .nop => [instrOperation (.srIdle 0 0)]

/-- The chip that `RD.CHIP i` takes from the word it read (R95). -/
def chipOfWord (w : Word) (i : Nat) : Bool := w.getLsbD (i % 32)

end Sys2Proof.Machine
end

