-- ==== Sys2Proof/Safety.lean ====
section
/-! DEFINITION. What a good state is, in the terms the statements use: the invariants of the leaf (40_lfsr.md) and of the
top (10_state.md), the code in closed form, runs of instructions, and the writers of each state element (10_state.md R42). -/

namespace Sys2Proof.Safety

open Sys2Proof.Machine

/-- The stages of a register with feedback mask `fbm`, `n` steps after the fill. -/
def stagesAfter (fbm : Stages) : Nat → Stages
  | 0 => initialFill
  | n + 1 => lfsrShift (stagesAfter fbm n) (lfsrFb (stagesAfter fbm n) fbm)

/-- Chip `n` of the code of two registers with the given masks: a function of the masks and `n` alone. -/
def codeChip (fbm1 outm1 fbm2 outm2 : Stages) (n : Nat) : Bool :=
  combine (lfsrOut (stagesAfter fbm1 n) outm1) (lfsrOut (stagesAfter fbm2 n) outm2)

/-- What holds of a leaf between operations: unconfigured it has the fill and no masks, a valid output bit is one of a
configured leaf without an error, and an output bit that is not valid is 0. -/
structure LeafInv (l : Leaf) : Prop where
  unconfigured : l.cfg = false → l.s = initialFill ∧ l.fbm = 0 ∧ l.outm = 0
  outputValid : l.ov = true → l.cfg = true ∧ l.err = .none
  outputZero : l.ov = false → l.ob = false

/-- What holds of the top between operations, for an instance with parameters `p`. -/
structure TopInv (p : Params) (t : Top) : Prop where
  /-- `ITER` is never larger than 1023 (R29) -/
  iterLe : t.iter.toNat ≤ Config.period
  /-- a cell at or above `ITER` is 0 (R31) -/
  cellsAbove : ∀ i, t.iter.toNat ≤ i → chipCell t.chips i = false
  /-- the unconfigured top has the reset values but for the error report (R41, R124) -/
  unconfigured : t.cfg = false → t = { Top.reset with err := t.err, errAny := t.errAny }
  /-- the configured top holds what the table gives its SV ID (R28, R32, R33, R123) -/
  configured : t.cfg = true → ∃ r, resolve p t.sv.toNat = .ok r ∧ t.svPrn.toNat = r.svPrn ∧ t.g1.fbm = r.g1Fbm
    ∧ t.g1.outm = g1OutTaps ∧ t.g2.fbm = r.g2Fbm ∧ t.g2.outm = r.g2Outm ∧ t.dlyv = r.dlyv ∧ t.delay.toNat = r.delay
    ∧ t.g1.cfg = true ∧ t.g2.cfg = true
  /-- a chip reported valid is the last chip produced (R35, R126) -/
  chipValid : t.valid = true → t.cfg = true ∧ 0 < t.iter.toNat ∧ chipCell t.chips (t.iter.toNat - 1) = t.chip
  /-- a chip not valid is 0 (R27) -/
  chipZero : t.valid = false → t.chip = false
  /-- an error on report has set `ERR_ANY` (R35, R153) -/
  errRecorded : t.err ≠ .none → t.errAny = true

/-- The history of a configured top: its registers are `ITER` steps from the fill, and cell `i` below `ITER` is chip `i`
of the code (R30, R31, R134). -/
structure CodeInv (t : Top) : Prop where
  g1Stages : t.cfg = true → t.g1.s = stagesAfter t.g1.fbm t.iter.toNat
  g2Stages : t.cfg = true → t.g2.s = stagesAfter t.g2.fbm t.iter.toNat
  cells : t.cfg = true → ∀ i, i < t.iter.toNat →
    chipCell t.chips i = codeChip t.g1.fbm t.g1.outm t.g2.fbm t.g2.outm i

/-- Run instructions one after another, as the host's commands or the leaf's ops arrive. -/
def runInstrs : List Instr → State → Host.Outcome State Fault Refusal
  | [], s => .next s
  | i :: is, s =>
    match exec i s with
    | .next s' => runInstrs is s'
    | .fault f => .fault f
    | .refused r => .refused r

/-- The instruction an operation carries, if it carries one: a leaf op, or a command written to CMD (R100, R133). -/
def instrOf : Operation → Option Instr
  | .leafOp w => (decode (.srop w)).toOption
  | .bus (.write addr width v) => if addr = 0 ∧ width = 4 then (decode (.cmd v)).toOption else none
  | .bus (.read _ _) => none
  | .leafReset _ => none
  | .topReset _ => none

/-- An operation that is a 4-byte write to CMD, legal word or not. -/
def isCommandWrite : Operation → Bool
  | .bus (.write addr width _) => decide (addr = 0 ∧ width = 4)
  | _ => false

/-- A reset of the top, or of the leaf. -/
def isTopReset : Operation → Bool
  | .topReset _ => true
  | _ => false
def isLeafReset : Operation → Bool
  | .leafReset _ => true
  | _ => false

/-- A byte address that the register map names (R52). -/
def named (a : Nat) : Prop := a % 4 = 0 ∧ (a ≤ 0x020 ∨ (0x100 ≤ a ∧ a ≤ 0x17C))

/-- An access that R54 does not admit, on a window that holds the map: a read that is not 4 bytes wide at a named
address, a write that is not 4 bytes wide at CMD. -/
def isRefusedAccess : Operation → Prop
  | .bus (.read addr width) => ¬ (width = 4 ∧ named addr)
  | .bus (.write addr width _) => ¬ (width = 4 ∧ addr = 0)
  | .leafOp _ => False
  | .leafReset _ => False
  | .topReset _ => False

/-- An SR.STEP that succeeds: one on a configured leaf (R105). -/
def stepsLeaf (s : State) (op : Operation) : Prop :=
  (∃ o f, instrOf op = some (.srStep o f)) ∧ s.leaf.cfg = true

/-- A chip-producing PRN.NEXT: one on a configured top that is not exhausted (R126). -/
def producesChip (s : State) (op : Operation) : Prop :=
  instrOf op = some .prnNext ∧ s.top.cfg = true ∧ s.top.iter.toNat < 1023

/-- An operation that makes the top report an error (R150, R152): a refused access, a word written to CMD that decodes to
no command, a PRN.INIT that does not resolve, or a PRN.NEXT on an unconfigured top. -/
def reportsTopError (s : State) (op : Operation) : Prop :=
  isRefusedAccess op
  ∨ (isCommandWrite op = true ∧ instrOf op = none)
  ∨ (∃ v e, instrOf op = some (.prnInit v) ∧ resolve s.params v = .error e)
  ∨ (instrOf op = some .prnNext ∧ s.top.cfg = false)

end Sys2Proof.Safety
end

