-- ==== Sys2Proof/Certificates/Slice0/Obligations.lean ====
section
/-! DEFINITION. The statements for the provers. Where a statement names a field that only the model has (`response`,
`pending`, the params record), the docstring says so with its log entry. -/

open Sys2Proof Sys2Proof.Machine Sys2Proof.Safety

/-! ### Encoding -/

/-- Words written out from the encodings of 30_encoding.md (R82, R87, R88) and the words of 95_test_vectors.md. -/
def Obligations.SampleWordsDecode : Prop :=
  decodeTableWord 32 0b00000001000000000000000000000001 = some (.prnInit 1)
  ∧ decodeTableWord 32 0b00000001000000000000000011111111 = some (.prnInit 255)
  ∧ decodeTableWord 32 0b00000010000000000000000000000000 = some .prnNext
  ∧ decodeTableWord 32 0b00000010000000000000000000000001 = none
  ∧ decodeTableWord 32 0b00000001000000000000000100000001 = none
  ∧ decodeTableWord 40 0b0000000010000000000000010000001000 = some (.srIdle 0x0200 0x0408) -- ignored fields kept
  ∧ decodeTableWord 40 0b0100000100000000000000010000001000 = some (.srInit 0x0400 0x0408)
  ∧ decodeTableWord 40 0b1000000000000000000000000000000000 = some (.srStep 0 0)
  ∧ decodeTableWord 40 0b1100000000000000000000000000000000 = some (.srRsvd 0 0)

/-- Decoding the words of a well-formed instruction gives it back: no bit of an encoding is dropped (R83, R84, R87 to
R89, R92). -/
def Obligations.DecodeOfEncodeIsIdentity : Prop :=
  ∀ i : Instr, i.wellFormed = true → decode (encode i) = .ok i

/-- The other direction: a word that decodes is the one encoding of the well-formed instruction it decodes to. -/
def Obligations.EncodeOfDecodeIsIdentity : Prop :=
  ∀ (pw : PortWord) (i : Instr), decode pw = .ok i → i.wellFormed = true ∧ encode i = pw

/-- The opcode table and the decoder agree (R96): a word that decodes is matched by exactly one row, that of its
instruction, and a word that no row matches, and no other, is rejected. -/
def Obligations.DecoderFollowsOpcodeTable : Prop :=
  ∀ pw : PortWord,
    (∀ i, decode pw = .ok i → (opcodeTable.filter fun r => r.matchesWord pw).map (·.mnemonic) = [i.mnemonic])
    ∧ (∀ e, decode pw = .error e → opcodeTable.filter (fun r => r.matchesWord pw) = [])

/-- An index mask is valid exactly when every index it names is in 1..10, and stage `k` of its stage mask is index `k`;
stage `k` of a table list's stage mask is set exactly when `k` is in the list, whatever the order and repetition.
A list is valid when every element is in [1,10], and the empty set is valid, with stage mask 0 and sum 0 (R89, R90; the set reading of a table list is D4, log 12). -/
def Obligations.TapSetsBecomeStageMasks : Prop :=
  (∀ m : IndexMask, validIndexMask m = true ↔ ∀ i, i < 16 → m.getLsbD i = true → 1 ≤ i ∧ i ≤ 10)
  ∧ (∀ (m : IndexMask) (k : Nat), 1 ≤ k → k ≤ 10 → stage (stageMaskOfIndexMask m) k = m.getLsbD k)
  ∧ (∀ (l : List Int) (k : Nat), 1 ≤ k → k ≤ 10 → (stage (stageMaskOfList l) k = true ↔ (k : Int) ∈ l))
  ∧ (∀ l : List Int, tapsInRange l = true ↔ ∀ x ∈ l, 1 ≤ x ∧ x ≤ 10)
  ∧ (validIndexMask 0 = true ∧ stageMaskOfIndexMask 0 = 0 ∧ tapsInRange [] = true ∧ stageMaskOfList [] = 0
      ∧ ∀ s : Stages, xorsum s 0 = false)

/-- The assembler lines and pseudo-instructions stand for the accesses and bundles of R94 and R95, every constructor of
`AsmLine`. `RD name` reads the register's address in the map of R52, and `RD.CHIP` takes its bit from the word it read.
In SR.INIT bit `i` of a field is set exactly when `i` is listed. `NOP` is the leaf's (log 22). -/
def Obligations.AssemblerWords : Prop :=
  (∀ sv : Nat, sv ≤ 255 →
    assemble (.prnInit sv) = [.bus (.write 0x000 4 (0x01000000#32 ||| BitVec.ofNat 32 sv))])
  ∧ assemble .prnNext = [.bus (.write 0x000 4 0x02000000#32)]
  ∧ (∀ (addr : Nat) (v : Word), assemble (.wr addr v) = [.bus (.write addr 4 v)])
  ∧ (∀ addr : Nat, assemble (.rd addr) = [.bus (.read addr 4)])
  ∧ (assemble (.rdName .cmd) = [.bus (.read 0x000 4)] ∧ assemble (.rdName .status) = [.bus (.read 0x004 4)]
      ∧ assemble (.rdName .svid) = [.bus (.read 0x008 4)] ∧ assemble (.rdName .delay) = [.bus (.read 0x00C 4)]
      ∧ assemble (.rdName .iter) = [.bus (.read 0x010 4)] ∧ assemble (.rdName .g1State) = [.bus (.read 0x014 4)]
      ∧ assemble (.rdName .g2State) = [.bus (.read 0x018 4)] ∧ assemble (.rdName .g1Taps) = [.bus (.read 0x01C 4)]
      ∧ assemble (.rdName .g2Taps) = [.bus (.read 0x020 4)]
      ∧ ∀ w : Fin 32, assemble (.rdName (.chips w)) = [.bus (.read (0x100 + 4 * w.val) 4)])
  ∧ assemble .srIdle = [.leafOp (0b00#2 ++ 0x0000#16 ++ 0x0000#16)]
  ∧ (∀ fb out : List Nat, ∃ w : Srop, assemble (.srInit fb out) = [.leafOp w] ∧ w.extractLsb' 32 2 = 0b01#2
      ∧ ∀ i, i < 16 → (w.getLsbD i = true ↔ i ∈ fb) ∧ (w.getLsbD (16 + i) = true ↔ i ∈ out))
  ∧ assemble .srStep = [.leafOp (0b10#2 ++ 0x0000#16 ++ 0x0000#16)]
  ∧ (∀ n : Nat, assemble (.prnRun n) = List.replicate n (.bus (.write 0x000 4 0x02000000#32)))
  ∧ (∀ i : Nat, i ≤ 1022 → assemble (.rdChip i) = [.bus (.read (0x100 + 4 * (i / 32)) 4)]
      ∧ ∀ w : Word, chipOfWord w i = w.getLsbD (i % 32))
  ∧ (∀ n : Nat, assemble (.srRun n) = List.replicate n (.leafOp (0b10#2 ++ 0x0000#16 ++ 0x0000#16)))
  ∧ assemble .nop = [.leafOp (0b00#2 ++ 0x0000#16 ++ 0x0000#16)]

/-! ### The step -/

/-- A step runs the decoded instruction: a 4-byte write to CMD runs its command with the write answered (the answer is
the model's field, log 8), a bundle runs its op, and with nothing pending the block holds its state (R133, R100, R166;
the list of pending operations is the model's field, log 1). -/
def Obligations.StepRunsDecodedInstruction : Prop :=
  (∀ (s : State) (w : Word) (i : Instr) (rest : List Operation),
    s.pending = .bus (.write 0x000 4 w) :: rest → decode (.cmd w) = .ok i →
    step s = exec i { s with pending := rest, response := some { data := none, error := false } })
  ∧ (∀ (s : State) (w : Srop) (i : Instr) (rest : List Operation),
    s.pending = .leafOp w :: rest → decode (.srop w) = .ok i → step s = exec i { s with pending := rest })
  ∧ (∀ s : State, s.pending = [] → step s = .next s)

/-- Every step answers a next state: the block never halts, and no error traps (R157, R179). -/
def Obligations.EveryStepCompletes : Prop :=
  ∀ s : State, ∃ t : State, step s = .next t

/-- An illegal command word, in the words of R85, changes the result flags as R131 says and nothing else of the block.
The answer to the write is the model's field (log 8). -/
def Obligations.IllegalCommandReported : Prop :=
  ∀ (s : State) (w : Word) (rest : List Operation), s.pending = .bus (.write 0x000 4 w) :: rest →
    ((w.extractLsb' 24 8 ≠ 0x01#8 ∧ w.extractLsb' 24 8 ≠ 0x02#8)
      ∨ (w.extractLsb' 24 8 = 0x01#8 ∧ w.extractLsb' 8 16 ≠ 0#16)
      ∨ (w.extractLsb' 24 8 = 0x02#8 ∧ w.extractLsb' 0 24 ≠ 0#24)) →
    ∃ r, step s = .next { s with
      pending := rest
      response := r
      top := { s.top with err := .illegal, errAny := true, valid := false, chip := false } }

/-! ### The leaf -/

/-- SR.IDLE changes nothing (R102). -/
def Obligations.SrIdleChangesNothing : Prop :=
  ∀ (outIdx fbIdx : IndexMask) (s : State), exec (.srIdle outIdx fbIdx) s = .next s

/-- SR.INIT: with two valid masks all seven leaf fields are written, with an invalid one the leaf becomes unconfigured
and reports CONFIG; nothing else changes (R103, R104). -/
def Obligations.SrInitConfiguresOrFails : Prop :=
  ∀ (outIdx fbIdx : IndexMask) (s : State),
    (fbIdx.getLsbD 0 = false ∧ fbIdx.extractLsb' 11 5 = 0#5 ∧ outIdx.getLsbD 0 = false
        ∧ outIdx.extractLsb' 11 5 = 0#5 →
      exec (.srInit outIdx fbIdx) s = .next { s with leaf :=
        { s := 0x3FF#10, fbm := fbIdx.extractLsb' 1 10, outm := outIdx.extractLsb' 1 10, cfg := true, err := .none,
          ov := false, ob := false } })
    ∧ (¬ (fbIdx.getLsbD 0 = false ∧ fbIdx.extractLsb' 11 5 = 0#5 ∧ outIdx.getLsbD 0 = false
        ∧ outIdx.extractLsb' 11 5 = 0#5) →
      exec (.srInit outIdx fbIdx) s = .next { s with leaf :=
        { s := 0x3FF#10, fbm := 0, outm := 0, cfg := false, err := .config, ov := false, ob := false } })

/-- SR.STEP: on a configured leaf the output bit and the feedback bit are the modulo-2 sums of the pre-step stages, on an
unconfigured one NOT_CONFIGURED is reported; nothing else changes (R105, R106, R107). -/
def Obligations.SrStepAdvancesOrReports : Prop :=
  ∀ (outIdx fbIdx : IndexMask) (s : State),
    (s.leaf.cfg = true →
      exec (.srStep outIdx fbIdx) s = .next { s with leaf :=
        { s.leaf with
          s := (s.leaf.s <<< 1) ||| (BitVec.ofBool (parity (s.leaf.s &&& s.leaf.fbm))).setWidth 10
          err := .none
          ov := true
          ob := parity (s.leaf.s &&& s.leaf.outm) } })
    ∧ (s.leaf.cfg = false →
      exec (.srStep outIdx fbIdx) s = .next { s with leaf :=
        { s.leaf with err := .notConfigured, ov := false, ob := false } })

/-- The reserved op reports ILLEGAL and changes no stage or mask (R91, R108). -/
def Obligations.SrRsvdReportsIllegal : Prop :=
  ∀ (outIdx fbIdx : IndexMask) (s : State),
    exec (.srRsvd outIdx fbIdx) s = .next { s with leaf :=
      { s.leaf with err := .illegal, ov := false, ob := false } }

/-- The leaf's output ports drive its state (R25, R100), with the error numbers of R151. -/
def Obligations.LeafPortsDriveTheState : Prop :=
  ∀ l : Leaf, l.ports.state_o = l.s
    ∧ (l.cfg = true → l.ports.cfg_o = 1#1) ∧ (l.cfg = false → l.ports.cfg_o = 0#1)
    ∧ (l.err = .none → l.ports.err_o = 0#3) ∧ (l.err = .config → l.ports.err_o = 2#3)
    ∧ (l.err = .notConfigured → l.ports.err_o = 3#3) ∧ (l.err = .illegal → l.ports.err_o = 4#3)
    ∧ (l.ov = true → l.ports.ov_o = 1#1) ∧ (l.ov = false → l.ports.ov_o = 0#1)
    ∧ (l.ob = true → l.ports.ob_o = 1#1) ∧ (l.ob = false → l.ports.ob_o = 0#1)

/-- What the ports show after a bundle (R100, R102 to R106, R108, R151), in the bundle's own bits: SR.IDLE leaves every
port, and after any other op `ov_o` is 1 exactly for an SR.STEP on a configured leaf, `ob_o` is then the modulo-2 sum of
the pre-step stages at the output taps and else 0, `err_o` is the number of the op's result, and `cfg_o` and `state_o`
follow the op. -/
def Obligations.LeafPortsReportTheLastOp : Prop :=
  ∀ (s : State) (w : Srop) (rest : List Operation), s.pending = .leafOp w :: rest →
    ∃ t, step s = .next t
      ∧ (w.extractLsb' 32 2 = 0b00#2 → t.leaf.ports = s.leaf.ports)
      ∧ (w.extractLsb' 32 2 = 0b01#2 → t.leaf.ports.state_o = 0x3FF#10 ∧ t.leaf.ports.ov_o = 0#1 ∧ t.leaf.ports.ob_o = 0#1
        ∧ ((w.getLsbD 0 = false ∧ w.extractLsb' 11 5 = 0#5 ∧ w.getLsbD 16 = false ∧ w.extractLsb' 27 5 = 0#5) →
          t.leaf.ports.cfg_o = 1#1 ∧ t.leaf.ports.err_o = 0#3)
        ∧ (¬ (w.getLsbD 0 = false ∧ w.extractLsb' 11 5 = 0#5 ∧ w.getLsbD 16 = false ∧ w.extractLsb' 27 5 = 0#5) →
          t.leaf.ports.cfg_o = 0#1 ∧ t.leaf.ports.err_o = 2#3))
      ∧ (w.extractLsb' 32 2 = 0b10#2 → t.leaf.ports.cfg_o = s.leaf.ports.cfg_o
        ∧ (s.leaf.ports.cfg_o = 1#1 → t.leaf.ports.ov_o = 1#1 ∧ t.leaf.ports.err_o = 0#3
          ∧ t.leaf.ports.ob_o = BitVec.ofBool (xorsum s.leaf.s s.leaf.outm)
          ∧ t.leaf.ports.state_o = lfsrShift s.leaf.s (xorsum s.leaf.s s.leaf.fbm))
        ∧ (s.leaf.ports.cfg_o = 0#1 → t.leaf.ports.ov_o = 0#1 ∧ t.leaf.ports.err_o = 3#3 ∧ t.leaf.ports.ob_o = 0#1
          ∧ t.leaf.ports.state_o = s.leaf.ports.state_o))
      ∧ (w.extractLsb' 32 2 = 0b11#2 → t.leaf.ports.cfg_o = s.leaf.ports.cfg_o
        ∧ t.leaf.ports.state_o = s.leaf.ports.state_o ∧ t.leaf.ports.ov_o = 0#1 ∧ t.leaf.ports.ob_o = 0#1
        ∧ t.leaf.ports.err_o = 4#3)

/-- The step in stage terms (R101, R12): new stage 1 is the fed-back bit, new stage `k + 1` is old stage `k`, and each
sum is the XOR of the selected stages. -/
def Obligations.LfsrStepInStageTerms : Prop :=
  (∀ s fbm outm : Stages, lfsrStep s fbm outm = (xorsum s outm, lfsrShift s (xorsum s fbm)))
  ∧ (∀ (s : Stages) (f : Bool), stage (lfsrShift s f) 1 = f)
  ∧ (∀ (s : Stages) (f : Bool) (k : Nat), 1 ≤ k → k ≤ 9 → stage (lfsrShift s f) (k + 1) = stage s k)
  ∧ (∀ s m : Stages, xorsum s m =
      ((stage s 1 && stage m 1) ^^ (stage s 2 && stage m 2) ^^ (stage s 3 && stage m 3) ^^ (stage s 4 && stage m 4)
        ^^ (stage s 5 && stage m 5) ^^ (stage s 6 && stage m 6) ^^ (stage s 7 && stage m 7)
        ^^ (stage s 8 && stage m 8) ^^ (stage s 9 && stage m 9) ^^ (stage s 10 && stage m 10)))

/-- Each step is GF(2)-linear in the stages for fixed masks (R111). -/
def Obligations.LfsrStepIsLinear : Prop :=
  ∀ s1 s2 fbm outm : Stages,
    (lfsrStep (s1 ^^^ s2) fbm outm).1 = ((lfsrStep s1 fbm outm).1 ^^ (lfsrStep s2 fbm outm).1)
    ∧ (lfsrStep (s1 ^^^ s2) fbm outm).2 = ((lfsrStep s1 fbm outm).2 ^^^ (lfsrStep s2 fbm outm).2)

/-- With the reference feedback masks the stages return to the fill first after 1023 steps (R110; the masks are the
spec's general knowledge, log 3). -/
def Obligations.ReferencePeriodsAre1023 : Prop :=
  (stagesAfter 0x204#10 1023 = 0x3FF#10 ∧ ∀ n, 0 < n → n < 1023 → stagesAfter 0x204#10 n ≠ 0x3FF#10)
  ∧ (stagesAfter 0x3A6#10 1023 = 0x3FF#10 ∧ ∀ n, 0 < n → n < 1023 → stagesAfter 0x3A6#10 n ≠ 0x3FF#10)

/-! ### The top's commands -/

/-- `resolve` follows the checks of R122 in their order, over any table: RANGE first, then CONFIG for a missing or
malformed feedback entry, output pair or delay, and otherwise the values of the table. -/
def Obligations.ResolveFollowsItsChecks : Prop :=
  ∀ (p : Params) (v : Nat),
    ((v < 1 ∨ 63 < v) → resolve p v = .error .range)
    ∧ (1 ≤ v → v ≤ 63 →
        (((∀ l, p.taps.g1 = some l → ∃ x ∈ l, x < 1 ∨ 10 < x)
          ∨ (∀ l, p.taps.g2 = some l → ∃ x ∈ l, x < 1 ∨ 10 < x)
          ∨ (∀ l, outTapsAt p.taps (if 37 < v then v - 37 else v) = some l →
              l.length ≠ 2 ∨ ∃ x ∈ l, x < 1 ∨ 10 < x)
          ∨ (firstDelaySv p.delayFrom ≤ v ∧ ∀ d, delayAt p.taps v = some d → d < 0 ∨ 2 ^ p.delayW.val ≤ d))
        → resolve p v = .error .config))
    ∧ (∀ l1 l2 l : List Int, 1 ≤ v → v ≤ 63 →
        p.taps.g1 = some l1 → (∀ x ∈ l1, 1 ≤ x ∧ x ≤ 10) →
        p.taps.g2 = some l2 → (∀ x ∈ l2, 1 ≤ x ∧ x ≤ 10) →
        outTapsAt p.taps (if 37 < v then v - 37 else v) = some l → l.length = 2 → (∀ x ∈ l, 1 ≤ x ∧ x ≤ 10) →
        (v < firstDelaySv p.delayFrom →
          resolve p v = .ok
            { svPrn := if 37 < v then v - 37 else v, g1Fbm := stageMaskOfList l1,
              g2Fbm := stageMaskOfList l2, g2Outm := stageMaskOfList l, dlyv := false, delay := 0 })
        ∧ (∀ d : Nat, firstDelaySv p.delayFrom ≤ v → delayAt p.taps v = some (d : Int) → d < 2 ^ p.delayW.val →
          resolve p v = .ok
            { svPrn := if 37 < v then v - 37 else v, g1Fbm := stageMaskOfList l1,
              g2Fbm := stageMaskOfList l2, g2Outm := stageMaskOfList l, dlyv := true, delay := d }))

/-- PRN.INIT: what `resolve` returns decides between the success writes of R123 and the failure writes of R124. Every
field of the block but the leaves' internal result fields, which the spec lets a model leave out (R27), is given;
nothing outside the top changes. -/
def Obligations.PrnInitFollowsResolve : Prop :=
  ∀ (sv : Nat) (s : State),
    (∀ r, resolve s.params sv = .ok r → ∃ t, exec (.prnInit sv) s = .next t ∧ t = { s with top :=
      { g1 := { t.top.g1 with s := 0x3FF#10, fbm := r.g1Fbm, outm := 0x200#10 }
        g2 := { t.top.g2 with s := 0x3FF#10, fbm := r.g2Fbm, outm := r.g2Outm }
        iter := 0, chips := 0, cfg := true, sv := BitVec.ofNat 6 sv, svPrn := BitVec.ofNat 6 r.svPrn, dlyv := r.dlyv
        delay := BitVec.ofNat 32 r.delay, err := .none, errAny := s.top.errAny, valid := false, chip := false } })
    ∧ (∀ e, resolve s.params sv = .error e → ∃ t, exec (.prnInit sv) s = .next t ∧ t = { s with top :=
      { g1 := { t.top.g1 with s := 0x3FF#10, fbm := 0, outm := 0 }
        g2 := { t.top.g2 with s := 0x3FF#10, fbm := 0, outm := 0 }
        iter := 0, chips := 0, cfg := false, sv := 0, svPrn := 0, dlyv := false, delay := 0, err := e, errAny := true
        valid := false, chip := false } })

/-- PRN.INIT over a table, end to end (R122, R123): a valid SV ID whose entries are present and well formed configures
both registers from them. The stored fields lose nothing: `SV`, `SVPRN` and `DELAY` read as the numbers they hold. -/
def Obligations.PrnInitConfiguresFromTable : Prop :=
  ∀ (s : State) (v d : Nat) (dv : Bool) (l1 l2 l : List Int), 1 ≤ v → v ≤ 63 →
    s.params.taps.g1 = some l1 → (∀ x ∈ l1, 1 ≤ x ∧ x ≤ 10) →
    s.params.taps.g2 = some l2 → (∀ x ∈ l2, 1 ≤ x ∧ x ≤ 10) →
    outTapsAt s.params.taps (if 37 < v then v - 37 else v) = some l → l.length = 2 → (∀ x ∈ l, 1 ≤ x ∧ x ≤ 10) →
    ((v < firstDelaySv s.params.delayFrom ∧ dv = false ∧ d = 0)
      ∨ (firstDelaySv s.params.delayFrom ≤ v ∧ dv = true ∧ delayAt s.params.taps v = some (d : Int)
          ∧ d < 2 ^ s.params.delayW.val)) →
    ∃ t, exec (.prnInit v) s = .next t
      ∧ t.top.cfg = true ∧ t.top.err = .none ∧ t.top.sv.toNat = v
      ∧ t.top.svPrn.toNat = (if 37 < v then v - 37 else v) ∧ t.top.dlyv = dv ∧ t.top.delay.toNat = d
      ∧ t.top.g1.s = 0x3FF#10 ∧ t.top.g2.s = 0x3FF#10 ∧ t.top.g1.outm = 0x200#10
      ∧ (∀ k, 1 ≤ k → k ≤ 10 →
          (stage t.top.g1.fbm k = true ↔ (k : Int) ∈ l1) ∧ (stage t.top.g2.fbm k = true ↔ (k : Int) ∈ l2)
          ∧ (stage t.top.g2.outm k = true ↔ (k : Int) ∈ l))
      ∧ t.top.iter = 0 ∧ (∀ i, chipCell t.top.chips i = false)

/-- An SV ID outside [1,63] takes the failure path with RANGE whatever the table holds (R125): the block of any
parameters answers alike. -/
def Obligations.SvOutOfRangeFails : Prop :=
  ∀ (sv : Nat) (s : State), (sv < 1 ∨ 63 < sv) → ∃ t, exec (.prnInit sv) s = .next t ∧ t = { s with top :=
    { g1 := { t.top.g1 with s := 0x3FF#10, fbm := 0, outm := 0 }
      g2 := { t.top.g2 with s := 0x3FF#10, fbm := 0, outm := 0 }
      iter := 0, chips := 0, cfg := false, sv := 0, svPrn := 0, dlyv := false, delay := 0, err := .range, errAny := true
      valid := false, chip := false } }

/-- PRN.NEXT (R126, R127, R129, and R128's writes): unconfigured it reports NOT_CONFIGURED, exhausted it yields no chip,
and otherwise both registers step once from their pre-step stages, and the modulo-2 sum of their outputs is the chip,
stored in cell `ITER` alone. The leaves' internal result fields are not stated (R27). -/
def Obligations.PrnNextProducesOneChip : Prop :=
  ∀ s : State,
    (s.top.cfg = false → exec .prnNext s = .next { s with top :=
      { s.top with err := .notConfigured, errAny := true, valid := false, chip := false } })
    ∧ (s.top.cfg = true → 1023 ≤ s.top.iter.toNat → exec .prnNext s = .next { s with top :=
      { s.top with err := .none, valid := false, chip := false } })
    ∧ (s.top.cfg = true → s.top.iter.toNat < 1023 → ∃ t, exec .prnNext s = .next t
        ∧ t = { s with top := { s.top with
            g1 := { t.top.g1 with s := lfsrShift s.top.g1.s (xorsum s.top.g1.s s.top.g1.fbm)
                                  fbm := s.top.g1.fbm, outm := s.top.g1.outm }
            g2 := { t.top.g2 with s := lfsrShift s.top.g2.s (xorsum s.top.g2.s s.top.g2.fbm)
                                  fbm := s.top.g2.fbm, outm := s.top.g2.outm }
            chips := t.top.chips
            iter := t.top.iter
            err := .none
            valid := true
            chip := (xorsum s.top.g1.s s.top.g1.outm ^^ xorsum s.top.g2.s s.top.g2.outm) } }
        ∧ t.top.iter.toNat = s.top.iter.toNat + 1
        ∧ ∀ j, chipCell t.top.chips j = if j = s.top.iter.toNat then t.top.chip else chipCell s.top.chips j)

/-- An exhausted block stays exhausted, with its chips and registers, until a PRN.INIT or a reset of the top, and a
PRN.NEXT writes only the result flags (R128). -/
def Obligations.ExhaustedUntilInitOrReset : Prop :=
  ∀ (s t : State) (op : Operation) (rest : List Operation), s.pending = op :: rest → s.top.cfg = true →
    s.top.iter.toNat = 1023 → isTopReset op = false → (∀ v, instrOf op ≠ some (.prnInit v)) → step s = .next t →
    t.top.cfg = true ∧ t.top.iter.toNat = 1023 ∧ t.top.chips = s.top.chips ∧ t.top.g1 = s.top.g1 ∧ t.top.g2 = s.top.g2
    ∧ (instrOf op = some .prnNext → t.top = { s.top with err := .none, valid := false, chip := false })

/-- Inside the top PRN.INIT drives SR.INIT on both leaves and PRN.NEXT drives SR.STEP (R42): each leaf ends as the
standalone leaf does after that op. That a leaf's result fields are kept at all is a choice the spec leaves to the model
(R27, log 10). -/
def Obligations.TopDrivesItsLeavesAsLeafOps : Prop :=
  (∀ (s t : State) (sv : Nat) (r : Resolution) (f1 f2 o2 : IndexMask),
    resolve s.params sv = .ok r → exec (.prnInit sv) s = .next t →
    validIndexMask f1 = true → validIndexMask f2 = true → validIndexMask o2 = true →
    stageMaskOfIndexMask f1 = r.g1Fbm → stageMaskOfIndexMask f2 = r.g2Fbm → stageMaskOfIndexMask o2 = r.g2Outm →
    exec (.srInit 0x0400 f1) { s with leaf := s.top.g1 } = .next { s with leaf := t.top.g1 }
    ∧ exec (.srInit o2 f2) { s with leaf := s.top.g2 } = .next { s with leaf := t.top.g2 })
  ∧ (∀ (s t : State) (o f : IndexMask), TopInv s.params s.top → s.top.cfg = true → s.top.iter.toNat < 1023 →
    exec .prnNext s = .next t →
    exec (.srStep o f) { s with leaf := s.top.g1 } = .next { s with leaf := t.top.g1 }
    ∧ exec (.srStep o f) { s with leaf := s.top.g2 } = .next { s with leaf := t.top.g2 })

/-! ### The register window -/

/-- The register map (R51, R52): an address names a register exactly when it is that register's one byte address, and the
named addresses are those of the map. -/
def Obligations.RegisterMapIsExact : Prop :=
  (∀ (a : Nat) (r : HostReg), hostRegAt a = some r ↔ a = r.addr)
  ∧ (∀ a : Nat, named a ↔ ∃ r, hostRegAt a = some r)

/-- Which accesses are admitted (R54) and what a refused one does (R55): a refused access writes `ERR` and `ERR_ANY`
alone, and reads return 0; an admitted read writes nothing. The answer to the bus is the model's field (log 8). -/
def Obligations.AccessesAdmittedOrRefused : Prop :=
  ∀ (s : State) (rest : List Operation) (addr width : Nat) (v : Word), s.params.wellFormed = true →
    (s.pending = .bus (.read addr width) :: rest →
      ((width = 4 ∧ named addr → ∃ d, step s = .next { s with
        pending := rest, response := some { data := some d, error := false } })
      ∧ (¬ (width = 4 ∧ named addr) → step s = .next { s with
        pending := rest
        response := some { data := some 0, error := true }
        top := { s.top with err := .access, errAny := true } })))
    ∧ (s.pending = .bus (.write addr width v) :: rest →
      ((width = 4 ∧ addr = 0 → ∃ t, step s = .next t ∧ t.response = some { data := none, error := false })
      ∧ (¬ (width = 4 ∧ addr = 0) → step s = .next { s with
        pending := rest
        response := some { data := none, error := true }
        top := { s.top with err := .access, errAny := true } })))

/-- The layouts of the registers (R37, R132): the word an admitted read returns, field by field, reserved bits 0. The
`ERR` field of STATUS has the code numbers of R150. -/
def Obligations.RegisterLayouts : Prop :=
  ∀ (s : State) (rest : List Operation) (addr : Nat), s.params.wellFormed = true → named addr →
    s.pending = .bus (.read addr 4) :: rest →
    ∃ v : Word, step s = .next { s with pending := rest, response := some { data := some v, error := false } }
      ∧ (addr = 0x000 → v = 0)
      ∧ (addr = 0x004 → v.getLsbD 0 = s.top.cfg ∧ v.getLsbD 1 = decide (s.top.iter = 1023#11)
          ∧ v.getLsbD 2 = s.top.valid ∧ v.getLsbD 3 = s.top.chip
          ∧ (s.top.err = .none → v.extractLsb' 4 4 = 0#4) ∧ (s.top.err = .range → v.extractLsb' 4 4 = 1#4)
          ∧ (s.top.err = .config → v.extractLsb' 4 4 = 2#4) ∧ (s.top.err = .notConfigured → v.extractLsb' 4 4 = 3#4)
          ∧ (s.top.err = .illegal → v.extractLsb' 4 4 = 4#4) ∧ (s.top.err = .access → v.extractLsb' 4 4 = 5#4)
          ∧ v.getLsbD 8 = s.top.errAny ∧ v.extractLsb' 9 23 = 0#23)
      ∧ (addr = 0x008 → v.extractLsb' 0 6 = s.top.sv ∧ v.extractLsb' 6 2 = 0#2 ∧ v.extractLsb' 8 6 = s.top.svPrn
          ∧ v.extractLsb' 14 2 = 0#2 ∧ v.getLsbD 16 = s.top.dlyv ∧ v.extractLsb' 17 15 = 0#15)
      ∧ (addr = 0x00C → (∀ b, b < s.params.delayW.val → v.getLsbD b = s.top.delay.getLsbD b)
          ∧ ∀ b, s.params.delayW.val ≤ b → v.getLsbD b = false)
      ∧ (addr = 0x010 → v.toNat = s.top.iter.toNat)
      ∧ (addr = 0x014 → v.toNat = s.top.g1.s.toNat)
      ∧ (addr = 0x018 → v.toNat = s.top.g2.s.toNat)
      ∧ (addr = 0x01C → v.extractLsb' 0 10 = s.top.g1.fbm ∧ v.extractLsb' 10 6 = 0#6
          ∧ v.extractLsb' 16 10 = s.top.g1.outm ∧ v.extractLsb' 26 6 = 0#6)
      ∧ (addr = 0x020 → v.extractLsb' 0 10 = s.top.g2.fbm ∧ v.extractLsb' 10 6 = 0#6
          ∧ v.extractLsb' 16 10 = s.top.g2.outm ∧ v.extractLsb' 26 6 = 0#6)
      ∧ (∀ w, w < 32 → addr = 0x100 + 4 * w → ∀ b, b < 32 →
          v.getLsbD b = if 32 * w + b ≤ 1022 then chipCell s.top.chips (32 * w + b) else false)

/-- `RD.CHIP i` reads chip `i` and nothing else moves (R63, R95). -/
def Obligations.RdChipReadsItsCell : Prop :=
  ∀ (s : State) (rest : List Operation) (i : Nat), s.params.wellFormed = true → i ≤ 1022 →
    s.pending = assemble (.rdChip i) ++ rest →
    ∃ w : Word, step s = .next { s with pending := rest, response := some { data := some w, error := false } }
      ∧ chipOfWord w i = chipCell s.top.chips i

/-- A read of STATUS right after a command sees that command's result (R64, R65). -/
def Obligations.StatusReadSeesTheCommand : Prop :=
  ∀ (s t : State) (w : Word) (i : Instr) (rest : List Operation),
    s.pending = .bus (.write 0x000 4 w) :: .bus (.read 0x004 4) :: rest → s.params.wellFormed = true →
    decode (.cmd w) = .ok i → step s = .next t →
    ∃ u, step t = .next u ∧ u.response = some { data := some (statusWord t.top), error := false } ∧ u.top = t.top
      ∧ ∃ s', exec i s' = .next t ∧ s'.top = s.top ∧ s'.params = s.params

/-- The host adds `BASE` (R163): the platform access at a register's platform address is the access at its window
address. -/
def Obligations.PlatformAddressesReachTheWindow : Prop :=
  ∀ (p : Params) (addr width : Nat) (v : Word), addr < 2 ^ p.addrW →
    Access.ofPlatform p (.read (platformAddress p addr) width) = some (.read addr width)
    ∧ Access.ofPlatform p (.write (platformAddress p addr) width v) = some (.write addr width v)

/-! ### Reset -/

/-- The reset values of the leaf and of the top (R26, R41, R172), for every choice of parameters. -/
def Obligations.ResetValues : Prop :=
  ∀ p : Params, (State.instantiate p).params = p
    ∧ (State.instantiate p).leaf =
      { s := 0x3FF#10, fbm := 0, outm := 0, cfg := false, err := .none, ov := false, ob := false }
    ∧ (State.instantiate p).top =
      { g1 := { s := 0x3FF#10, fbm := 0, outm := 0, cfg := false, err := .none, ov := false, ob := false }
        g2 := { s := 0x3FF#10, fbm := 0, outm := 0, cfg := false, err := .none, ov := false, ob := false }
        iter := 0, chips := 0, cfg := false, sv := 0, svPrn := 0, dlyv := false, delay := 0, err := .none
        errAny := false, valid := false, chip := false }
    ∧ statusWord (State.instantiate p).top = 0

/-- Reset as an operation (R170, R171): it sets the fields it resets to their reset values from any state, whatever
operation it overlaps, and the parameters stay. The answer to the bus is the model's field (log 8). -/
def Obligations.ResetOperationRestoresResetState : Prop :=
  (∀ (s : State) (o : Option Access) (rest : List Operation), s.pending = .topReset o :: rest →
    ∃ r, step s = .next { s with pending := rest, top := (State.instantiate s.params).top, response := r })
  ∧ (∀ (s : State) (o : Option Srop) (rest : List Operation), s.pending = .leafReset o :: rest →
    step s = .next { s with pending := rest, leaf := (State.instantiate s.params).leaf })

/-! ### Invariants of every step -/

/-- The leaf's invariant is kept by every step (R21 to R24, R42). -/
def Obligations.LeafInvariantKept : Prop :=
  ∀ s t : State, LeafInv s.leaf → step s = .next t → LeafInv t.leaf

/-- The top's invariant is kept by every step (R28, R29, R31 to R36, R41). -/
def Obligations.TopInvariantKept : Prop :=
  ∀ s t : State, TopInv s.params s.top → step s = .next t → TopInv t.params t.top

/-- The code history is kept by every step (R30, R31, R134): the registers of a configured block are `ITER` steps from
the fill, and the cells below `ITER` are the chips of its code. -/
def Obligations.CodeHistoryKept : Prop :=
  ∀ s t : State, CodeInv s.top → step s = .next t → CodeInv t.top

/-- The three invariants hold at reset, for every choice of parameters. -/
def Obligations.InvariantsHoldAtReset : Prop :=
  ∀ p : Params, LeafInv (State.instantiate p).leaf ∧ TopInv p (State.instantiate p).top
    ∧ CodeInv (State.instantiate p).top

/-! ### Whole-machine rules -/

/-- No step writes the parameters, the tap table among them (R40, R58, R170). -/
def Obligations.ParametersAreImmutable : Prop :=
  ∀ s t : State, step s = .next t → t.params = s.params

/-- A leaf op or a leaf reset leaves the top alone, a bus access or a top reset leaves the standalone leaf alone (R69,
R111). -/
def Obligations.LeafAndTopAreIndependent : Prop :=
  ∀ (s t : State) (op : Operation) (rest : List Operation), s.pending = op :: rest → step s = .next t →
    ((∃ w, op = .leafOp w) ∨ isLeafReset op = true → t.top = s.top ∧ t.response = s.response)
    ∧ ((∃ a, op = .bus a) ∨ isTopReset op = true → t.leaf = s.leaf)

/-- The writers of each state element (R42), row by row of its table: an operation that is none of an element's writers
leaves it as it was. Of SR.STEP only a successful one writes the leaf's `S`, and of PRN.NEXT only a chip-producing one
writes the registers, `ITER` and `CHIPS`. An operation that makes the top report no error leaves `ERR_ANY`; the two
clauses on refused accesses are over a window that holds the map. -/
def Obligations.OnlyTheListedWritersWrite : Prop :=
  ∀ (s t : State) (op : Operation) (rest : List Operation), s.pending = op :: rest → step s = .next t →
    (isLeafReset op = false → (∀ o f, instrOf op ≠ some (.srInit o f)) →
      t.leaf.fbm = s.leaf.fbm ∧ t.leaf.outm = s.leaf.outm ∧ t.leaf.cfg = s.leaf.cfg
      ∧ (¬ stepsLeaf s op → t.leaf.s = s.leaf.s)
      ∧ ((∀ o f, instrOf op ≠ some (.srStep o f)) → (∀ o f, instrOf op ≠ some (.srRsvd o f)) →
        t.leaf.err = s.leaf.err ∧ t.leaf.ov = s.leaf.ov ∧ t.leaf.ob = s.leaf.ob))
    ∧ (isTopReset op = false → (∀ v, instrOf op ≠ some (.prnInit v)) →
      t.top.cfg = s.top.cfg ∧ t.top.sv = s.top.sv ∧ t.top.svPrn = s.top.svPrn ∧ t.top.dlyv = s.top.dlyv
      ∧ t.top.delay = s.top.delay ∧ t.top.g1.fbm = s.top.g1.fbm ∧ t.top.g1.outm = s.top.g1.outm
      ∧ t.top.g2.fbm = s.top.g2.fbm ∧ t.top.g2.outm = s.top.g2.outm
      ∧ (¬ producesChip s op → t.top.g1 = s.top.g1 ∧ t.top.g2 = s.top.g2 ∧ t.top.iter = s.top.iter
        ∧ t.top.chips = s.top.chips))
    ∧ (isTopReset op = false → isCommandWrite op = false →
      t.top.valid = s.top.valid ∧ t.top.chip = s.top.chip
      ∧ (s.params.wellFormed = true → ¬ isRefusedAccess op → t.top.err = s.top.err))
    ∧ (s.params.wellFormed = true → isTopReset op = false → ¬ reportsTopError s op → t.top.errAny = s.top.errAny)

/-- `ERR_ANY` is cleared by a reset of the top alone (R35). -/
def Obligations.ErrAnyIsSticky : Prop :=
  ∀ (s t : State) (op : Operation) (rest : List Operation), s.pending = op :: rest → isTopReset op = false →
    s.top.errAny = true → step s = .next t → t.top.errAny = true

/-- Only PRN.INIT reads the table, and not even it reads `first_ten_chips` (R58): another instruction's effect is the
same under any parameters, and PRN.INIT's under any `first_ten_chips` column. -/
def Obligations.OnlyPrnInitReadsTheTable : Prop :=
  (∀ (i : Instr) (s t : State) (p : Params), (∀ v, i ≠ .prnInit v) → exec i s = .next t →
    exec i { s with params := p } = .next { t with params := p })
  ∧ (∀ (v : Nat) (s t : State) (c : List (Nat × String)), exec (.prnInit v) s = .next t →
    exec (.prnInit v) { s with params := { s.params with taps := { s.params.taps with firstTen := c } } }
      = .next { t with params := { s.params with taps := { s.params.taps with firstTen := c } } })

/-- The delay is never applied (R130): no instruction but PRN.INIT has an effect that depends on `DELAY` or `DLYV`, and
two tables that differ in their delays alone, and resolve the SV ID both, give PRN.INIT results that differ in `DLYV`
and `DELAY` alone. -/
def Obligations.DelayIsNeverApplied : Prop :=
  (∀ (i : Instr) (s t : State) (d : Word) (dv : Bool), (∀ v, i ≠ .prnInit v) → exec i s = .next t →
    exec i { s with top := { s.top with delay := d, dlyv := dv } }
      = .next { t with top := { t.top with delay := d, dlyv := dv } })
  ∧ (∀ (v : Nat) (s t : State) (c : List (Nat × Int)) (p : Params) (r r' : Resolution),
    p = { s.params with taps := { s.params.taps with delays := c } } →
    resolve s.params v = .ok r → resolve p v = .ok r' → exec (.prnInit v) s = .next t →
    ∃ u, exec (.prnInit v) { s with params := p } = .next u
      ∧ u = { t with params := p, top := { t.top with dlyv := u.top.dlyv, delay := u.top.delay } })

/-! ### Runs -/

/-- A generation run (R126, R128, R179, R134): from any state, a successful PRN.INIT and then `n` times PRN.NEXT leave
`min n 1023` chips, exactly those of the code of the resolved masks, no chip beyond them, and the block exhausted exactly
when the period is complete. -/
def Obligations.GenerationRunGivesTheCode : Prop :=
  ∀ (s : State) (v n : Nat) (r : Resolution), resolve s.params v = .ok r →
    ∃ t, runInstrs (.prnInit v :: List.replicate n .prnNext) s = .next t
      ∧ t.top.cfg = true ∧ t.top.err = .none ∧ t.top.iter.toNat = min n 1023
      ∧ (t.top.exhausted = true ↔ 1023 ≤ n)
      ∧ (∀ i, chipCell t.top.chips i =
          if i < min n 1023 then codeChip r.g1Fbm 0x200#10 r.g2Fbm r.g2Outm i else false)
      ∧ t.top.g1.s = stagesAfter r.g1Fbm (min n 1023) ∧ t.top.g2.s = stagesAfter r.g2Fbm (min n 1023)

/-- Determinism (R134): after a successful PRN.INIT and `n` times PRN.NEXT the top depends on the parameters, the SV ID
and `n` alone, but for the sticky `ERR_ANY`, whatever the block held before. -/
def Obligations.RunsFromAnyStateAgree : Prop :=
  ∀ (s s' : State) (v n : Nat) (r : Resolution), s'.params = s.params → resolve s.params v = .ok r →
    ∃ t t', runInstrs (.prnInit v :: List.replicate n .prnNext) s = .next t
      ∧ runInstrs (.prnInit v :: List.replicate n .prnNext) s' = .next t'
      ∧ t'.top = { t.top with errAny := t'.top.errAny }

/-- Aliased SV IDs (R135): for `v` in 38..63, where both resolve, the run of `v` and the run of `v - 37` differ in `SV`,
`DLYV` and `DELAY` alone; their registers and chips are equal. -/
def Obligations.AliasedSvIdsGiveTheSameCode : Prop :=
  ∀ (s : State) (v n : Nat) (r r' : Resolution), 38 ≤ v → v ≤ 63 → resolve s.params v = .ok r →
    resolve s.params (v - 37) = .ok r' →
    ∃ t t', runInstrs (.prnInit v :: List.replicate n .prnNext) s = .next t
      ∧ runInstrs (.prnInit (v - 37) :: List.replicate n .prnNext) s = .next t'
      ∧ t'.top = { t.top with sv := t'.top.sv, dlyv := t'.top.dlyv, delay := t'.top.delay }

/-- The first ten chips of SV IDs 1..37 under the reference table are those of its `first_ten_chips` column, from any
state and whatever the delays (R61; both columns are the spec's general knowledge, log 3). -/
def Obligations.FirstTenChipsMatchTheReference : Prop :=
  ∀ (s : State) (delays : List (Nat × Int)) (v : Nat), s.params.taps = referenceTaps delays → 1 ≤ v → v ≤ 37 →
    ∃ t digits, runInstrs (.prnInit v :: List.replicate 10 .prnNext) s = .next t
      ∧ firstTenAt s.params.taps v = some digits
      ∧ (List.range 10).map (chipCell t.top.chips) = firstTenChips digits
end

