-- ==== Sys2Proof/Laws/Decode.lean ====
section
/-! SUPPORT. The fields of the words the encoder builds, and the opcode table's masks as fields. -/

namespace Sys2Proof

@[simp] theorem sropOp_sropWord (op : BitVec 2) (o f : IndexMask) : sropOp (sropWord op o f) = op := by
  apply BitVec.eq_of_getLsbD_eq
  intro i hi
  simp only [sropOp, sropWord, BitVec.getLsbD_extractLsb', BitVec.getLsbD_append]
  rw [if_neg (by omega), if_neg (by omega)]
  simp only [hi, decide_true, Bool.true_and]
  congr 1
  omega

@[simp] theorem sropOutIdx_sropWord (op : BitVec 2) (o f : IndexMask) : sropOutIdx (sropWord op o f) = o := by
  apply BitVec.eq_of_getLsbD_eq
  intro i hi
  simp only [sropOutIdx, sropWord, BitVec.getLsbD_extractLsb', BitVec.getLsbD_append]
  rw [if_neg (by omega), if_pos (by omega)]
  simp only [hi, decide_true, Bool.true_and]
  congr 1
  omega

@[simp] theorem sropFbIdx_sropWord (op : BitVec 2) (o f : IndexMask) : sropFbIdx (sropWord op o f) = f := by
  apply BitVec.eq_of_getLsbD_eq
  intro i hi
  simp only [sropFbIdx, sropWord, BitVec.getLsbD_extractLsb', BitVec.getLsbD_append]
  rw [if_pos (by omega)]
  simp only [hi, decide_true, Bool.true_and]
  congr 1
  omega

/-- A bundle is made of its three fields (R87). -/
theorem sropWord_fields (w : Srop) : sropWord (sropOp w) (sropOutIdx w) (sropFbIdx w) = w := by
  apply BitVec.eq_of_getLsbD_eq
  intro i hi
  simp only [sropOp, sropOutIdx, sropFbIdx, sropWord, BitVec.getLsbD_extractLsb', BitVec.getLsbD_append]
  split
  · simp; omega
  · split
    · have h1 : i - 16 < 16 := by omega
      have h2 : 16 + (i - 16) = i := by omega
      simp [h1, h2]
    · have h1 : i - 16 - 16 < 2 := by omega
      have h2 : 32 + (i - 16 - 16) = i := by omega
      simp [h1, h2]

/-- The mask of the SROP rows keeps the OP field alone. -/
theorem srop_mask (w : Srop) : w &&& 0x300000000#34 = sropWord (sropOp w) 0 0 := by
  apply BitVec.eq_of_getLsbD_eq
  intro i hi
  simp only [sropOp, sropWord, BitVec.getLsbD_and, BitVec.getLsbD_append, BitVec.getLsbD_extractLsb']
  interval_cases i <;> simp

theorem sropWord_op_inj {op op' : BitVec 2} (h : sropWord op 0 0 = sropWord op' 0 0) : op = op' := by
  simpa using congrArg sropOp h

/-- A PRN.INIT word, bit by bit (R83). -/
theorem initWord_getLsbD (b : BitVec 8) (i : Nat) (hi : i < 32) :
    (0x01000000#32 ||| b.setWidth 32).getLsbD i = (decide (i = 24) || b.getLsbD i) := by
  rw [BitVec.getLsbD_or, BitVec.getLsbD_setWidth]
  interval_cases i <;> simp

end Sys2Proof
end

