-- ==== Sys2Proof/Laws/State.lean ====
section
/-! SUPPORT. One lemma for each field and each update of the state, so that no proof unfolds a record update. -/

namespace Sys2Proof.Machine

/-! ### The state's setters -/

@[simp] theorem State.setLeaf_leaf (s : State) (l : Leaf) : (s.setLeaf l).leaf = l := rfl
@[simp] theorem State.setLeaf_top (s : State) (l : Leaf) : (s.setLeaf l).top = s.top := rfl
@[simp] theorem State.setLeaf_params (s : State) (l : Leaf) : (s.setLeaf l).params = s.params := rfl
@[simp] theorem State.setLeaf_pending (s : State) (l : Leaf) : (s.setLeaf l).pending = s.pending := rfl
@[simp] theorem State.setLeaf_response (s : State) (l : Leaf) : (s.setLeaf l).response = s.response := rfl

@[simp] theorem State.setTop_leaf (s : State) (t : Top) : (s.setTop t).leaf = s.leaf := rfl
@[simp] theorem State.setTop_top (s : State) (t : Top) : (s.setTop t).top = t := rfl
@[simp] theorem State.setTop_params (s : State) (t : Top) : (s.setTop t).params = s.params := rfl
@[simp] theorem State.setTop_pending (s : State) (t : Top) : (s.setTop t).pending = s.pending := rfl
@[simp] theorem State.setTop_response (s : State) (t : Top) : (s.setTop t).response = s.response := rfl

@[simp] theorem State.setPending_leaf (s : State) (o : List Operation) : (s.setPending o).leaf = s.leaf := rfl
@[simp] theorem State.setPending_top (s : State) (o : List Operation) : (s.setPending o).top = s.top := rfl
@[simp] theorem State.setPending_params (s : State) (o : List Operation) : (s.setPending o).params = s.params := rfl
@[simp] theorem State.setPending_pending (s : State) (o : List Operation) : (s.setPending o).pending = o := rfl
@[simp] theorem State.setPending_response (s : State) (o : List Operation) :
    (s.setPending o).response = s.response := rfl

@[simp] theorem State.answer_leaf (s : State) (r : Option BusResponse) : (s.answer r).leaf = s.leaf := rfl
@[simp] theorem State.answer_top (s : State) (r : Option BusResponse) : (s.answer r).top = s.top := rfl
@[simp] theorem State.answer_params (s : State) (r : Option BusResponse) : (s.answer r).params = s.params := rfl
@[simp] theorem State.answer_pending (s : State) (r : Option BusResponse) : (s.answer r).pending = s.pending := rfl
@[simp] theorem State.answer_response (s : State) (r : Option BusResponse) : (s.answer r).response = r := rfl

/-! ### The leaf's updates -/

@[simp] theorem Leaf.raise_s (l : Leaf) (e : LeafErr) : (l.raise e).s = l.s := rfl
@[simp] theorem Leaf.raise_fbm (l : Leaf) (e : LeafErr) : (l.raise e).fbm = l.fbm := rfl
@[simp] theorem Leaf.raise_outm (l : Leaf) (e : LeafErr) : (l.raise e).outm = l.outm := rfl
@[simp] theorem Leaf.raise_cfg (l : Leaf) (e : LeafErr) : (l.raise e).cfg = l.cfg := rfl
@[simp] theorem Leaf.raise_err (l : Leaf) (e : LeafErr) : (l.raise e).err = e := rfl
@[simp] theorem Leaf.raise_ov (l : Leaf) (e : LeafErr) : (l.raise e).ov = false := rfl
@[simp] theorem Leaf.raise_ob (l : Leaf) (e : LeafErr) : (l.raise e).ob = false := rfl

@[simp] theorem Leaf.advance_s (l : Leaf) : l.advance.s = lfsrShift l.s (lfsrFb l.s l.fbm) := by
  simp only [Leaf.advance, Leaf.succeed, lfsrStep]
@[simp] theorem Leaf.advance_fbm (l : Leaf) : l.advance.fbm = l.fbm := rfl
@[simp] theorem Leaf.advance_outm (l : Leaf) : l.advance.outm = l.outm := rfl
@[simp] theorem Leaf.advance_cfg (l : Leaf) : l.advance.cfg = l.cfg := rfl
@[simp] theorem Leaf.advance_err (l : Leaf) : l.advance.err = .none := rfl
@[simp] theorem Leaf.advance_ov (l : Leaf) : l.advance.ov = true := rfl
@[simp] theorem Leaf.advance_ob (l : Leaf) : l.advance.ob = lfsrOut l.s l.outm := by
  simp only [Leaf.advance, Leaf.succeed, lfsrStep]

/-- A configured leaf does not depend on the leaf before it. -/
theorem Leaf.configure_eq (l : Leaf) (fbm outm : Stages) : l.configure fbm outm =
    { s := initialFill, fbm := fbm, outm := outm, cfg := true, err := .none, ov := false, ob := false } := rfl

/-- Nor does an unconfigured one. -/
theorem Leaf.unconfigure_eq (l : Leaf) (e : LeafErr) : l.unconfigure e =
    { s := initialFill, fbm := 0, outm := 0, cfg := false, err := e, ov := false, ob := false } := rfl

/-! ### The top's updates -/

/-- The top after a failed command, field by field. -/
theorem Top.raise_eq (t : Top) (e : TopErr) :
    t.raise e = { t with err := e, errAny := true, valid := false, chip := false } := rfl

theorem Top.refuse_eq (t : Top) : t.refuse = { t with err := .access, errAny := true } := rfl

theorem Top.succeed_eq (t : Top) (v c : Bool) : t.succeed v c = { t with err := .none, valid := v, chip := c } := rfl

/-- A configured top keeps only `ERR_ANY` of the top before it. -/
theorem Top.configure_eq (t : Top) (sv : Nat) (r : Resolution) : t.configure sv r =
    { g1 := t.g1.configure r.g1Fbm g1OutTaps, g2 := t.g2.configure r.g2Fbm r.g2Outm, iter := 0, chips := 0, cfg := true,
      sv := BitVec.ofNat 6 sv, svPrn := BitVec.ofNat 6 r.svPrn, dlyv := r.dlyv, delay := BitVec.ofNat 32 r.delay,
      err := .none, errAny := t.errAny, valid := false, chip := false } := rfl

/-- An unconfigured top keeps nothing of the top before it. -/
theorem Top.unconfigure_eq (t : Top) (e : TopErr) :
    t.unconfigure e = { Top.reset with err := e, errAny := true } := rfl

@[simp] theorem Top.exhausted_iff (t : Top) : t.exhausted = true ↔ t.iter = 1023#11 := by
  unfold Top.exhausted
  exact beq_iff_eq

/-- The chip a top would produce next. -/
def Top.nextChip (t : Top) : Bool := combine (lfsrOut t.g1.s t.g1.outm) (lfsrOut t.g2.s t.g2.outm)

theorem Top.produceChip_eq (t : Top) : t.produceChip =
    { t with g1 := t.g1.advance, g2 := t.g2.advance, chips := setChipCell t.chips t.iter.toNat t.nextChip,
             iter := t.iter + 1, err := .none, valid := true, chip := t.nextChip } := by
  simp only [Top.produceChip, Top.succeed, Top.nextChip, lfsrStep]

end Sys2Proof.Machine
end

