-- ==== Sys2Proof/Laws/Ops.lean ====
section
/-! SUPPORT. What each shared operation can do, said once: the chip buffer, table resolution, `exec` per instruction, and
the moves of a step. -/

namespace Sys2Proof.Machine

/-! ### The chip buffer -/

@[simp] theorem bitWord_getLsbD_zero (w : Nat) (hw : 0 < w) (b : Bool) : (bitWord w b).getLsbD 0 = b := by
  simp [bitWord, hw]

theorem bitWord_getLsbD (w i : Nat) (b : Bool) : (bitWord w b).getLsbD i = (decide (i < w) && decide (i = 0) && b) := by
  cases i <;> simp [bitWord]

/-- Writing one cell writes that cell alone. -/
theorem chipCell_setChipCell (chips : ChipBuffer) (i j : Nat) (c : Bool) (hi : i < 1023) :
    chipCell (setChipCell chips i c) j = if j = i then c else chipCell chips j := by
  unfold chipCell setChipCell
  rw [BitVec.getLsbD_or, BitVec.getLsbD_and, BitVec.getLsbD_not, BitVec.getLsbD_twoPow, BitVec.getLsbD_shiftLeft,
    bitWord_getLsbD]
  by_cases hj : j < 1023
  · rcases Nat.lt_trichotomy j i with hlt | heq | hgt
    · simp [hj, hlt, Nat.ne_of_lt hlt, Nat.ne_of_gt hlt]
    · simp [heq, hi]
    · have h0 : ¬ j < i := by omega
      have h1 : j - i ≠ 0 := by omega
      have h2 : i ≠ j := by omega
      simp [hj, h0, h1, h2, h2.symm]
  · have hne : j ≠ i := by omega
    simp [hj, hne, BitVec.getLsbD_of_ge chips j (by omega)]

@[simp] theorem chipCell_zero (j : Nat) : chipCell 0#1023 j = false := by simp [chipCell]

/-- The lanes of a register word hold all its bits, lane 0 the lowest (R53). -/
theorem byteLane_getLsbD (v : Word) (j i : Nat) (hi : i < 8) : (byteLane v j).getLsbD i = v.getLsbD (8 * j + i) := by
  simp [byteLane, hi]

/-- Counting a chip does not wrap below the cap. -/
theorem iter_succ_toNat (x : BitVec 11) (h : x.toNat < 1023) : (x + 1).toNat = x.toNat + 1 := by
  rw [BitVec.toNat_add]
  simp
  omega

/-! ### Table resolution -/

theorem resolveFeedback_error {e : Option (List Int)} {c : TopErr} (h : resolveFeedback e = .error c) :
    c = .config := by
  unfold resolveFeedback at h
  repeat' split at h
  all_goals simp_all

theorem resolveOutputPair_error {e : Option (List Int)} {c : TopErr} (h : resolveOutputPair e = .error c) :
    c = .config := by
  unfold resolveOutputPair at h
  repeat' split at h
  all_goals simp_all

theorem resolveDelay_error {p : Params} {v : Nat} {c : TopErr} (h : resolveDelay p v = .error c) : c = .config := by
  unfold resolveDelay at h
  repeat' split at h
  all_goals simp_all

/-- A resolved delay fits `DELAY_W`, and is 0 where none was looked up. -/
theorem resolveDelay_ok {p : Params} {v d : Nat} {dv : Bool} (h : resolveDelay p v = .ok (dv, d)) :
    d < 2 ^ p.delayW.val ∧ (dv = true ↔ firstDelaySv p.delayFrom ≤ v) ∧ (dv = false → d = 0) := by
  unfold resolveDelay at h
  split at h
  · split at h
    · cases h
    · split at h
      · rename_i hlt
        cases h
        refine ⟨?_, by simp_all, by simp⟩
        zify
        rw [Int.toNat_of_nonneg hlt.1]
        exact hlt.2
      · cases h
  · cases h
    exact ⟨Nat.two_pow_pos _, by simp_all, by simp⟩

/-- What a successful resolution says: the SV ID is in range and every part resolved. -/
theorem resolve_ok {p : Params} {v : Nat} {r : Resolution} (h : resolve p v = .ok r) :
    (1 ≤ v ∧ v ≤ 63) ∧ r.svPrn = svPrnOf v ∧ resolveFeedback p.taps.g1 = .ok r.g1Fbm
      ∧ resolveFeedback p.taps.g2 = .ok r.g2Fbm ∧ resolveOutputPair (outTapsAt p.taps (svPrnOf v)) = .ok r.g2Outm
      ∧ resolveDelay p v = .ok (r.dlyv, r.delay) := by
  unfold resolve at h
  split at h
  · cases h
  · rename_i hv
    simp only [Config.svMin, Config.svMax, not_or, not_lt] at hv
    repeat' split at h
    all_goals cases h
    exact ⟨⟨by omega, by omega⟩, rfl, by assumption, by assumption, by assumption, by assumption⟩

/-- And conversely. -/
theorem resolve_of_parts {p : Params} {v : Nat} {m1 m2 o2 : Stages} {dv : Bool} {d : Nat} (h1 : 1 ≤ v) (h63 : v ≤ 63)
    (hg1 : resolveFeedback p.taps.g1 = .ok m1) (hg2 : resolveFeedback p.taps.g2 = .ok m2)
    (ho : resolveOutputPair (outTapsAt p.taps (svPrnOf v)) = .ok o2) (hd : resolveDelay p v = .ok (dv, d)) :
    resolve p v = .ok { svPrn := svPrnOf v, g1Fbm := m1, g2Fbm := m2, g2Outm := o2, dlyv := dv, delay := d } := by
  unfold resolve
  rw [if_neg (by simp only [Config.svMin, Config.svMax]; omega), hg1, hg2, ho, hd]

/-- A failed resolution reports RANGE or CONFIG. -/
theorem resolve_error {p : Params} {v : Nat} {e : TopErr} (h : resolve p v = .error e) : e = .range ∨ e = .config := by
  unfold resolve at h
  split at h
  · cases h
    exact .inl rfl
  · right
    repeat' split at h
    all_goals first
      | (cases h; exact resolveFeedback_error (by assumption))
      | (cases h; exact resolveOutputPair_error (by assumption))
      | (cases h; exact resolveDelay_error (by assumption))
      | cases h

/-- A base index fits the SVPRN field. -/
theorem svPrnOf_lt {v : Nat} (h : v ≤ 63) : svPrnOf v < 64 := by
  unfold svPrnOf Config.baseSvs
  split <;> omega

/-! ### Table lists -/

theorem tapsInRange_iff (l : List Int) : tapsInRange l = true ↔ ∀ x ∈ l, 1 ≤ x ∧ x ≤ 10 := by
  simp only [tapsInRange, List.all_eq_true, Bool.and_eq_true, decide_eq_true_eq]
  rfl

/-! ### `exec`, one equation for each case of each instruction -/

theorem exec_prnInit_ok {sv : Nat} {s : State} {r : Resolution} (h : resolve s.params sv = .ok r) :
    exec (.prnInit sv) s = .next (s.setTop (s.top.configure sv r)) := by
  simp [exec, execPrnInit, h]

theorem exec_prnInit_error {sv : Nat} {s : State} {e : TopErr} (h : resolve s.params sv = .error e) :
    exec (.prnInit sv) s = .next (s.setTop (s.top.unconfigure e)) := by
  simp [exec, execPrnInit, h]

theorem exec_prnNext_unconfigured {s : State} (h : s.top.cfg = false) :
    exec .prnNext s = .next (s.setTop (s.top.raise .notConfigured)) := by
  simp [exec, execPrnNext, h]

theorem exec_prnNext_exhausted {s : State} (h : s.top.cfg = true) (hi : 1023 ≤ s.top.iter.toNat) :
    exec .prnNext s = .next (s.setTop (s.top.succeed false false)) := by
  simp [exec, execPrnNext, h, hi]

theorem exec_prnNext_chip {s : State} (h : s.top.cfg = true) (hi : s.top.iter.toNat < 1023) :
    exec .prnNext s = .next (s.setTop s.top.produceChip) := by
  simp [exec, execPrnNext, h, Nat.not_le.mpr hi]

/-! ### Moves: everything an operation can do to the leaf and to the top -/

/-- The moves of a leaf under its ops. -/
inductive LeafMove : Leaf → Leaf → Prop where
  | stay (l) : LeafMove l l
  | configure (l fbm outm) : LeafMove l (l.configure fbm outm)
  | unconfigure (l) : LeafMove l (l.unconfigure .config)
  | advance (l) (h : l.cfg = true) : LeafMove l l.advance
  | notConfigured (l) (h : l.cfg = false) : LeafMove l (l.raise .notConfigured)
  | illegal (l) : LeafMove l (l.raise .illegal)
  | reset (l) : LeafMove l Leaf.reset

/-- The moves of the top under the host's accesses. -/
inductive TopMove (p : Params) : Top → Top → Prop where
  | stay (t) : TopMove p t t
  | configure (t sv r) (h : resolve p sv = .ok r) : TopMove p t (t.configure sv r)
  | unconfigure (t sv e) (h : resolve p sv = .error e) : TopMove p t (t.unconfigure e)
  | notConfigured (t) (h : t.cfg = false) : TopMove p t (t.raise .notConfigured)
  | exhausted (t) (h : t.cfg = true) (hi : 1023 ≤ t.iter.toNat) : TopMove p t (t.succeed false false)
  | chip (t) (h : t.cfg = true) (hi : t.iter.toNat < 1023) : TopMove p t t.produceChip
  | illegal (t) : TopMove p t (t.raise .illegal)
  | refuse (t) : TopMove p t t.refuse
  | reset (t) : TopMove p t Top.reset

/-- An instruction answers a next state, moves the leaf and the top by one move each, and writes nothing else. -/
theorem exec_moves (i : Instr) (s : State) : ∃ l t, exec i s = .next ((s.setLeaf l).setTop t)
    ∧ LeafMove s.leaf l ∧ TopMove s.params s.top t := by
  cases i with
  | prnInit sv =>
    cases h : resolve s.params sv with
    | ok r => exact ⟨s.leaf, _, exec_prnInit_ok h, .stay _, .configure _ _ _ h⟩
    | error e => exact ⟨s.leaf, _, exec_prnInit_error h, .stay _, .unconfigure _ _ _ h⟩
  | prnNext =>
    cases hc : s.top.cfg with
    | false => exact ⟨s.leaf, _, exec_prnNext_unconfigured hc, .stay _, .notConfigured _ hc⟩
    | true =>
      by_cases hi : s.top.iter.toNat < 1023
      · exact ⟨s.leaf, _, exec_prnNext_chip hc hi, .stay _, .chip _ hc hi⟩
      · exact ⟨s.leaf, _, exec_prnNext_exhausted hc (by omega), .stay _, .exhausted _ hc (by omega)⟩
  | srIdle o f => exact ⟨s.leaf, s.top, rfl, .stay _, .stay _⟩
  | srInit o f =>
    by_cases hv : validIndexMask f = true ∧ validIndexMask o = true
    · exact ⟨_, s.top, by simp only [exec, execSrInit]; rw [if_pos hv]; rfl, .configure _ _ _, .stay _⟩
    · exact ⟨_, s.top, by simp only [exec, execSrInit]; rw [if_neg hv]; rfl, .unconfigure _, .stay _⟩
  | srStep o f =>
    cases hc : s.leaf.cfg with
    | true => exact ⟨_, s.top, by simp only [exec, execSrStep]; rw [if_pos hc]; rfl, .advance _ hc, .stay _⟩
    | false => exact ⟨_, s.top, by simp only [exec, execSrStep]; rw [if_neg (by simp [hc])]; rfl,
        .notConfigured _ hc, .stay _⟩
  | srRsvd o f => exact ⟨_, s.top, rfl, .illegal _, .stay _⟩

/-! ### The step -/

theorem hostRegAt_eq_cmd {a : Nat} : hostRegAt a = some .cmd ↔ a = 0 := by
  unfold hostRegAt
  constructor
  · intro h
    by_contra hne
    rw [if_neg hne] at h
    repeat' split at h
    all_goals simp at h
  · rintro rfl
    rfl

/-- The only address of CMD, at the only admitted width (R52, R54). -/
theorem addressedReg_eq_cmd {p : Params} {addr width : Nat} :
    addressedReg p addr width = some .cmd ↔ addr = 0 ∧ width = 4 := by
  unfold addressedReg
  constructor
  · intro h
    split at h
    · exact ⟨hostRegAt_eq_cmd.mp h, by omega⟩
    · cases h
  · rintro ⟨rfl, rfl⟩
    simp [hostRegAt]

/-- In a window that holds the map every named address reaches its register. -/
theorem addressedReg_of_named {p : Params} {addr : Nat} (hp : p.wellFormed = true) (hn : Safety.named addr) :
    ∃ r, addressedReg p addr 4 = some r := by
  obtain ⟨h4, ha⟩ := hn
  have hw : 0x180 ≤ 2 ^ p.addrW := by simp_all [Params.wellFormed]
  have hr : ∃ r, hostRegAt addr = some r := by
    unfold hostRegAt
    rcases ha with ha | ⟨ha1, ha2⟩
    · interval_cases addr <;> simp_all
    · repeat' split
      all_goals first
        | exact ⟨_, rfl⟩
        | omega
  obtain ⟨r, hr⟩ := hr
  exact ⟨r, by rw [addressedReg, if_pos ⟨rfl, h4, by omega⟩, hr]⟩

/-- Everything a step with a pending operation can do: run the instruction the operation carries, with that operation
taken off and perhaps an access answered, or else make one of the moves that are no instruction. -/
theorem step_cons {s : State} {op : Operation} {rest : List Operation} (h : s.pending = op :: rest) :
    (∃ i r, Safety.instrOf op = some i ∧ step s = exec i ((s.setPending rest).answer r))
    ∨ (Safety.instrOf op = none ∧ ∃ l u r, step s = .next ((((s.setPending rest).setLeaf l).setTop u).answer r)
        ∧ (l = s.leaf ∨ (Safety.isLeafReset op = true ∧ l = Leaf.reset))
        ∧ (u = s.top ∨ ((s.params.wellFormed = true → Safety.isRefusedAccess op) ∧ u = s.top.refuse)
            ∨ (Safety.isCommandWrite op = true ∧ u = s.top.raise .illegal)
            ∨ (Safety.isTopReset op = true ∧ u = Top.reset))) := by
  cases op with
  | leafOp w =>
    exact .inl ⟨decodeSrop w, s.response, rfl, by simp [step, fetch, h, fetchOperation, fetchLeafOp, decode]; rfl⟩
  | leafReset o =>
    exact .inr ⟨rfl, Leaf.reset, s.top, s.response, by simp [step, fetch, h, fetchOperation, State.resetLeaf]; rfl,
      .inr ⟨rfl, rfl⟩, .inl rfl⟩
  | topReset o =>
    exact .inr ⟨rfl, s.leaf, Top.reset, none, by simp [step, fetch, h, fetchOperation, State.resetTop]; rfl,
      .inl rfl, .inr (.inr (.inr ⟨rfl, rfl⟩))⟩
  | bus a =>
    cases a with
    | read addr width =>
      cases hr : addressedReg s.params addr width with
      | some r =>
        exact .inr ⟨rfl, s.leaf, s.top, some { data := some (readHostReg s.params s.top r), error := false }, by
          simp [step, fetch, h, fetchOperation, fetchAccess, hr, State.answerRead]; rfl, .inl rfl, .inl rfl⟩
      | none =>
        exact .inr ⟨rfl, s.leaf, s.top.refuse, some { data := some 0, error := true }, by
          simp [step, fetch, h, fetchOperation, fetchAccess, hr, State.refuseRead]; rfl, .inl rfl,
          .inr (.inl ⟨fun hp => by
            rintro ⟨rfl, hn⟩
            obtain ⟨r, hr'⟩ := addressedReg_of_named hp hn
            simp [hr'] at hr, rfl⟩)⟩
    | write addr width v =>
      by_cases hc : addr = 0 ∧ width = 4
      · have hr : addressedReg s.params addr width = some .cmd := addressedReg_eq_cmd.mpr hc
        cases hd : decode (.cmd v) with
        | ok i =>
          exact .inl ⟨i, some { data := none, error := false }, by simp [Safety.instrOf, hc, hd, Except.toOption], by
            simp [step, fetch, h, fetchOperation, fetchAccess, hr, fetchCommand, hd, State.answerWrite]⟩
        | error e =>
          exact .inr ⟨by simp [Safety.instrOf, hd, Except.toOption], s.leaf, s.top.raise .illegal,
            some { data := none, error := false }, by
              simp [step, fetch, h, fetchOperation, fetchAccess, hr, fetchCommand, hd, State.answerWrite,
                State.illegalCommand]; rfl, .inl rfl,
            .inr (.inr (.inl ⟨by simp [Safety.isCommandWrite, hc], rfl⟩))⟩
      · have hr : addressedReg s.params addr width ≠ some .cmd := fun hr => hc (addressedReg_eq_cmd.mp hr)
        exact .inr ⟨by simp only [Safety.instrOf]; rw [if_neg hc], s.leaf, s.top.refuse,
          some { data := none, error := true }, by
            simp [step, fetch, h, fetchOperation, fetchAccess, hr, State.refuseWrite]; rfl, .inl rfl,
          .inr (.inl ⟨fun _ hn => hc ⟨hn.2, hn.1⟩, rfl⟩)⟩

/-- With nothing pending the block holds its state (R166). -/
theorem step_nil {s : State} (h : s.pending = []) : step s = .next s := by
  simp [step, fetch, h]

/-- A step moves the leaf and the top by one move each. -/
theorem step_moves {s t : State} (h : step s = .next t) :
    LeafMove s.leaf t.leaf ∧ TopMove s.params s.top t.top := by
  cases hp : s.pending with
  | nil =>
    rw [step_nil hp] at h
    cases h
    exact ⟨.stay _, .stay _⟩
  | cons op rest =>
    rcases step_cons hp with ⟨i, r, -, hs⟩ | ⟨-, l, u, r, hs, hl, hu⟩
    · obtain ⟨l, u, he, hl, hu⟩ := exec_moves i ((s.setPending rest).answer r)
      rw [hs, he] at h
      cases h
      exact ⟨hl, hu⟩
    · rw [hs] at h
      cases h
      refine ⟨?_, ?_⟩
      · rcases hl with rfl | ⟨-, rfl⟩
        · exact .stay _
        · exact .reset _
      · rcases hu with rfl | ⟨-, rfl⟩ | ⟨-, rfl⟩ | ⟨-, rfl⟩
        · exact .stay _
        · exact .refuse _
        · exact .illegal _
        · exact .reset _

end Sys2Proof.Machine
end

