-- ==== Sys2Proof/Laws/PerInstr.lean ====
section
/-! SUPPORT. Statements for all instructions, made per instruction. -/

namespace Sys2Proof.Laws

namespace TableRow

/-- The words of a well-formed instruction match its own row of the opcode table and no other (R96). -/
def Statement (i : Instr) : Prop :=
  i.wellFormed = true → (opcodeTable.filter fun r => r.matchesWord (encode i)).map (·.mnemonic) = [i.mnemonic]

theorem cmd_init_fields (b : BitVec 8) :
    (0x01000000#32 ||| b.setWidth 32) &&& 0xFFFFFF00#32 = 0x01000000#32
    ∧ (0x01000000#32 ||| b.setWidth 32) ≠ 0x02000000#32 := by
  constructor
  · apply BitVec.eq_of_getLsbD_eq
    intro i hi
    rw [BitVec.getLsbD_and, initWord_getLsbD b i hi]
    interval_cases i <;> simp
  · intro h
    have := congrArg (fun v => BitVec.getLsbD v 24) h
    simp at this

/-- The rows a CMD word matches, by its two comparisons. -/
theorem cmd_rows (w : Word) : opcodeTable.filter (fun r => r.matchesWord (.cmd w)) =
    (if w &&& 0xFFFFFF00#32 = 0x01000000#32 then
      [{ mnemonic := "PRN.INIT", format := .cmd, pattern := 0x01000000, mask := 0xFFFFFF00 }] else [])
    ++ (if w = 0x02000000#32 then
      [{ mnemonic := "PRN.NEXT", format := .cmd, pattern := 0x02000000, mask := 0xFFFFFFFF }] else []) := by
  have hm : w &&& 0xFFFFFFFF#32 = w := BitVec.and_allOnes
  by_cases h1 : w &&& 0xFFFFFF00#32 = 0x01000000#32 <;> by_cases h2 : w = 0x02000000#32 <;>
    simp [opcodeTable, OpcodeRow.matchesWord, List.filter, h1, h2, hm]

theorem prnInit (sv : Nat) : Statement (.prnInit sv) := by
  intro _
  have h := cmd_init_fields (BitVec.ofNat 8 sv)
  simp only [encode, cmd_rows]
  rw [if_pos h.1, if_neg h.2]
  rfl

theorem prnNext : Statement .prnNext := by
  intro _
  decide

/-- A bundle's row is picked by its OP field. -/
theorem srop_rows (op : BitVec 2) (o f : IndexMask) :
    opcodeTable.filter (fun r => r.matchesWord (.srop (sropWord op o f)))
      = opcodeTable.filter (fun r => r.matchesWord (.srop (sropWord op 0 0))) := by
  apply List.filter_congr
  intro r hr
  simp only [opcodeTable, List.mem_cons, List.not_mem_nil, or_false] at hr
  rcases hr with rfl | rfl | rfl | rfl | rfl | rfl <;>
    simp [OpcodeRow.matchesWord, srop_mask]

theorem srIdle (o f : IndexMask) : Statement (.srIdle o f) := by
  intro _
  simp only [encode, srop_rows, Instr.mnemonic]
  decide

theorem srInit (o f : IndexMask) : Statement (.srInit o f) := by
  intro _
  simp only [encode, srop_rows, Instr.mnemonic]
  decide

theorem srStep (o f : IndexMask) : Statement (.srStep o f) := by
  intro _
  simp only [encode, srop_rows, Instr.mnemonic]
  decide

theorem srRsvd (o f : IndexMask) : Statement (.srRsvd o f) := by
  intro _
  simp only [encode, srop_rows, Instr.mnemonic]
  decide

end TableRow

end Sys2Proof.Laws
end

