-- ==== Sys2Proof/Tests/Slice0.lean ====
section
/-! SUPPORT. The model's own tests: the smoke test of the well-formedness checks, words written out from the encodings,
single steps against 95_test_vectors.md, and a witness for the hypotheses of each statement. -/

namespace Sys2Proof.Tests

open Sys2Proof.Machine Sys2Proof.Safety

/-! ### Helpers -/

/-- The reference table with the delay stub of 95_test_vectors.md for SV 38 and 39, and a base address. -/
def testParams : Params where
  taps := referenceTaps [(38, 38), (39, 39)]
  delayFrom := .sv39
  delayW := 10
  addrW := 12
  base := 0x4000

/-- The reset block of an instance, with operations presented. -/
def testState (p : Params) (ops : List Operation) : State := (State.instantiate p).setPending ops

/-- The state an outcome leaves; the reset state where it leaves none. -/
def stateOf : Host.Outcome State Fault Refusal → State
  | .next s => s
  | .fault _ => State.reset
  | .refused _ => State.reset

/-- The block configured for SV 1, with operations presented. -/
def sv1 (ops : List Operation) : State := (stateOf (exec (.prnInit 1) (testState testParams []))).setPending ops

/-- And after its first chip (V21). -/
def sv1Chip (ops : List Operation) : State := (stateOf (exec .prnNext (sv1 []))).setPending ops

/-- The block for SV 1 with its counter set. -/
def sv1At (n : BitVec 11) (ops : List Operation) : State := (sv1 ops).setTop { (sv1 []).top with iter := n }

/-- A leaf configured as G1 (V10). -/
def g1Leaf : State := stateOf (exec (.srInit 0x0400 0x0408) (testState testParams []))

/-- The leaf fields in the order of the spec's tables. -/
def leafRow (l : Leaf) : Stages × Stages × Stages × Bool × BitVec 3 × Bool × Bool :=
  (l.s, l.fbm, l.outm, l.cfg, l.err.code, l.ov, l.ob)

/-- The words of the register window after a state. -/
def reg (s : State) (r : HostReg) : Word := readHostReg s.params s.top r

/-! ### Well-formedness: one ill-formed term for each check -/

theorem test_wf_sv_fits_field : Instr.wellFormed (.prnInit 255) = true := by decide
theorem test_wf_refuses_sv_256 : Instr.wellFormed (.prnInit 256) = false := by decide
theorem test_wf_params : testParams.wellFormed = true := by decide
theorem test_wf_refuses_zero_delay_width : Params.wellFormed { testParams with delayW := 0 } = false := by decide
theorem test_wf_refuses_small_window : Params.wellFormed { testParams with addrW := 8 } = false := by decide
theorem test_wf_refuses_asm_sv : AsmLine.wellFormed (.prnInit 256) = false := by decide
theorem test_wf_refuses_asm_feedback_index : AsmLine.wellFormed (.srInit [3, 16] [10]) = false := by decide
theorem test_wf_refuses_asm_output_index : AsmLine.wellFormed (.srInit [3, 10] [16]) = false := by decide
theorem test_wf_refuses_asm_chip_index : AsmLine.wellFormed (.rdChip 1023) = false := by decide
theorem test_wf_asm_bounds : AsmLine.wellFormed (.srInit [0, 15] [15]) = true
    ∧ AsmLine.wellFormed (.rdChip 1022) = true := by decide

/-! ### Decoding: words written out bit by bit from R82 and R87 -/

theorem test_decode_prnInit :
    decodeTableWord 32 0b00000001000000000000000000111111 = some (.prnInit 63) := by decide
theorem test_decode_prnNext : decodeTableWord 32 0b00000010000000000000000000000000 = some .prnNext := by decide
theorem test_decode_srIdle :
    decodeTableWord 40 0b0011111111111111111111111111111111 = some (.srIdle 0xFFFF 0xFFFF) := by decide
theorem test_decode_srInit :
    decodeTableWord 40 0b0100000000010001000000011101001100 = some (.srInit 0x0044 0x074C) := by decide
theorem test_decode_srStep : decodeTableWord 40 0x200000000 = some (.srStep 0 0) := by decide
theorem test_decode_srRsvd : decodeTableWord 40 0x300000000 = some (.srRsvd 0 0) := by decide
/-- The six illegal words of V24. -/
theorem test_decode_illegal : ∀ w ∈ [0x00000000, 0x03000000, 0xFF000000, 0x02000001, 0x01000101, 0x01800001],
    decodeTableWord 32 w = none := by decide
theorem test_decode_too_wide : decodeTableWord 40 0x400000000 = none ∧ decodeTableWord 32 0x100000000 = none := by
  decide
/-- The SROP words of V10, from the assembler line. -/
theorem test_assemble_srInit :
    assemble (.srInit [3, 10] [10]) = [.leafOp 0x104000408#34]
    ∧ assemble (.srInit [2, 3, 6, 8, 9, 10] [2, 6]) = [.leafOp 0x10044074C#34] := by decide
theorem test_assemble_run : assemble (.prnRun 2) = [.bus (.write 0 4 0x02000000), .bus (.write 0 4 0x02000000)] := by
  decide

/-! ### The leaf (V1, V10, V16 to V19) -/

theorem test_srInit_g1 : leafRow g1Leaf.leaf = (0x3FF, 0x204, 0x200, true, 0, false, false) := by decide
theorem test_srInit_bad_index :
    leafRow (stateOf (exec (.srInit 0x0400 0x0808) g1Leaf)).leaf = (0x3FF, 0, 0, false, 2, false, false) := by decide
theorem test_srStep_g1 :
    leafRow (stateOf (exec (.srStep 0 0) g1Leaf)).leaf = (0x3FE, 0x204, 0x200, true, 0, true, true) := by decide
theorem test_srStep_unconfigured :
    leafRow (stateOf (exec (.srStep 0 0) (testState testParams []))).leaf = (0x3FF, 0, 0, false, 3, false, false) := by
  decide
theorem test_srRsvd :
    leafRow (stateOf (exec (.srRsvd 0 0) (stateOf (exec (.srStep 0 0) g1Leaf)))).leaf
      = (0x3FE, 0x204, 0x200, true, 4, false, false) := by decide
theorem test_srIdle :
    leafRow (stateOf (exec (.srIdle 0xFFFF 0xFFFF) (stateOf (exec (.srStep 0 0) g1Leaf)))).leaf
      = (0x3FE, 0x204, 0x200, true, 0, true, true) := by decide
theorem test_leaf_ports : (stateOf (exec (.srStep 0 0) g1Leaf)).leaf.ports
    = { state_o := 0x3FE, cfg_o := 1, err_o := 0, ov_o := 1, ob_o := 1 } := by decide
/-- V1 and V2 as stage values. -/
theorem test_stages_v1_v2 : stagesAfter 0x204 3 = 0x3F8 ∧ stagesAfter 0x3A6 1 = 0x3FE := by decide
/-- V8: the first ten chips of SV 1. -/
theorem test_first_ten_sv1 : (List.range 10).map (codeChip 0x204 0x200 0x3A6 0x022) = firstTenChips "1440" := by decide

/-! ### The top (V21 to V31) -/

theorem test_prnInit_1 : reg (sv1 []) .status = 0x00000001 ∧ reg (sv1 []) .svid = 0x00000101
    ∧ reg (sv1 []) .g1Taps = 0x02000204 ∧ reg (sv1 []) .g2Taps = 0x002203A6 := by decide
theorem test_prnInit_39 :
    let s := stateOf (exec (.prnInit 39) (testState testParams []))
    reg s .svid = 0x00010227 ∧ reg s .delay = 0x27 ∧ reg s .g2Taps = 0x004403A6 := by decide
theorem test_prnInit_38_both_delay_from :
    reg (stateOf (exec (.prnInit 38) (testState testParams []))) .svid = 0x00000126
    ∧ reg (stateOf (exec (.prnInit 38) (testState { testParams with delayFrom := .sv38 } []))) .svid = 0x00010126 := by
  decide
theorem test_prnInit_range : reg (stateOf (exec (.prnInit 64) (sv1Chip []))) .status = 0x00000110
    ∧ reg (stateOf (exec (.prnInit 64) (sv1Chip []))) .g1Taps = 0 := by decide
/-- Rows of V28: a table entry that is no pair, and a delay out of range. -/
theorem test_prnInit_config :
    reg (stateOf (exec (.prnInit 5) (testState { testParams with taps :=
      { testParams.taps with outTaps := [(5, [1, 9, 3])] } } []))) .status = 0x00000120
    ∧ reg (stateOf (exec (.prnInit 39) (testState { testParams with taps :=
      { testParams.taps with delays := [(39, 1024)] } } []))) .status = 0x00000120 := by decide
theorem test_prnNext_first : reg (sv1Chip []) .status = 0x0000000D ∧ reg (sv1Chip []) .iter = 1
    ∧ reg (sv1Chip []) .g1State = 0x3FE ∧ reg (sv1Chip []) (.chips 0) = 1 := by decide +kernel
theorem test_prnNext_exhausted : reg (stateOf (exec .prnNext (sv1At 1023 []))) .status = 0x00000003
    ∧ reg (stateOf (exec .prnNext (sv1At 1023 []))) .g1State = 0x3FF := by decide
theorem test_prnNext_unconfigured :
    reg (stateOf (exec .prnNext (testState testParams []))) .status = 0x00000130 := by decide
theorem test_illegal_command :
    reg (stateOf (step (sv1Chip [.bus (.write 0 4 0x03000000)]))) .status = 0x00000141 := by decide
/-- The accesses of V31. -/
theorem test_refused_accesses : ∀ a ∈ [Access.read 0x024 4, .read 0x180 4, .read 0x102 4, .read 0x004 1, .write 0x004 4 0,
    .write 0x001 4 0x02000000, .write 0x000 2 0x02000000],
    reg (stateOf (step (sv1Chip [.bus a]))) .status = 0x0000015D ∧ reg (stateOf (step (sv1Chip [.bus a]))) .iter = 1 := by
  decide +kernel
theorem test_read_cmd : (stateOf (step (sv1Chip [.bus (.read 0 4)]))).response = some { data := some 0, error := false }
    ∧ reg (stateOf (step (sv1Chip [.bus (.read 0 4)]))) .status = 0x0000000D := by decide
theorem test_top_reset : (stateOf (step (sv1Chip [.topReset (some (.write 0 4 0x02000000))]))).top = Top.reset := rfl
theorem test_withFetchWord_runs_first :
    (stateOf (step (State.reset.withFetchWord 32 0x01000001))).top.sv = 1
    ∧ (stateOf (step (State.reset.withFetchWord 40 0x104000408))).leaf.fbm = 0x204 := by decide

/-! ### Witnesses: a state and operands that meet the hypotheses of each statement that has some -/

theorem witness_DecodeOfEncodeIsIdentity : Instr.wellFormed (.prnInit 255) = true := by decide
theorem witness_EncodeOfDecodeIsIdentity : decode (.cmd 0x010000FF) = .ok (.prnInit 255)
    ∧ decode (.srop 0x3FFFFFFFF) = .ok (.srRsvd 0xFFFF 0xFFFF) := by decide
theorem witness_DecoderFollowsOpcodeTable : decode (.cmd 0x02000000) = .ok .prnNext
    ∧ decode (.cmd 0x01000100) = .error .initReservedBits := by decide
theorem witness_TapSetsBecomeStageMasks :
    stage (stageMaskOfIndexMask 0x0402) 1 = true ∧ stage (stageMaskOfIndexMask 0x0402) 10 = true
    ∧ stage (stageMaskOfList [10, 1]) 1 = true ∧ stage (stageMaskOfList [10, 1]) 10 = true := by decide
/-- The largest SV field and the last chip. -/
theorem witness_AssemblerWords : (255 ≤ 255 ∧ assemble (.prnInit 255) = [.bus (.write 0 4 0x010000FF)])
    ∧ (1022 ≤ 1022 ∧ assemble (.rdChip 1022) = [.bus (.read 0x17C 4)]) := by decide
theorem witness_StepRunsDecodedInstruction :
    (sv1 [.bus (.write 0 4 0x02000000)]).pending = [.bus (.write 0 4 0x02000000)]
    ∧ decode (.cmd 0x02000000) = .ok .prnNext ∧ (sv1 [.leafOp 0x200000000]).pending = [.leafOp 0x200000000]
    ∧ decode (.srop 0x200000000) = .ok (.srStep 0 0) ∧ (sv1 []).pending = [] := by decide
/-- One word for each clause of R85. -/
theorem witness_IllegalCommandReported :
    (∀ w, (sv1 [.bus (.write 0 4 w)]).pending = [.bus (.write 0 4 w)])
    ∧ ((0x03000000#32).extractLsb' 24 8 ≠ 0x01#8 ∧ (0x03000000#32).extractLsb' 24 8 ≠ 0x02#8)
    ∧ ((0x01000100#32).extractLsb' 24 8 = 0x01#8 ∧ (0x01000100#32).extractLsb' 8 16 ≠ 0#16)
    ∧ ((0x02000001#32).extractLsb' 24 8 = 0x02#8 ∧ (0x02000001#32).extractLsb' 0 24 ≠ 0#24) :=
  ⟨fun _ => rfl, by decide, by decide, by decide⟩
/-- Valid masks with every valid index; invalid ones at index 0 and at index 11. -/
theorem witness_SrInitConfiguresOrFails :
    (0x07FE#16).getLsbD 0 = false ∧ (0x07FE#16).extractLsb' 11 5 = 0#5 ∧ (0x0001#16).getLsbD 0 ≠ false
    ∧ (0x0800#16).extractLsb' 11 5 ≠ 0#5 := by decide
theorem witness_SrStepAdvancesOrReports : g1Leaf.leaf.cfg = true ∧ (sv1 []).leaf.cfg = false := by decide
/-- A leaf for each error number, configured or not, with each output bit. -/
theorem witness_LeafPortsDriveTheState :
    (∀ e : LeafErr, ({ Leaf.reset with err := e } : Leaf).err = e) ∧ Leaf.reset.cfg = false ∧ g1Leaf.leaf.cfg = true
    ∧ Leaf.reset.ov = false ∧ Leaf.reset.ob = false ∧ (stateOf (exec (.srStep 0 0) g1Leaf)).leaf.ov = true
    ∧ (stateOf (exec (.srStep 0 0) g1Leaf)).leaf.ob = true :=
  ⟨fun _ => rfl, by decide, by decide, by decide, by decide, by decide, by decide⟩
/-- Each op; SR.INIT with the valid masks of R103, with index 0 and with index 11; SR.STEP configured and not. -/
theorem witness_LeafPortsReportTheLastOp :
    (∀ w, (g1Leaf.setPending [.leafOp w]).pending = [.leafOp w])
    ∧ ((0x000000000#34).extractLsb' 32 2 = 0b00#2 ∧ (0x200000000#34).extractLsb' 32 2 = 0b10#2
      ∧ (0x300000000#34).extractLsb' 32 2 = 0b11#2)
    ∧ ((0x104000408#34).extractLsb' 32 2 = 0b01#2 ∧ (0x104000001#34).extractLsb' 32 2 = 0b01#2
      ∧ (0x108000408#34).extractLsb' 32 2 = 0b01#2)
    ∧ ((0x104000408#34).getLsbD 0 = false ∧ (0x104000408#34).extractLsb' 11 5 = 0#5
      ∧ (0x104000408#34).getLsbD 16 = false ∧ (0x104000408#34).extractLsb' 27 5 = 0#5)
    ∧ (0x104000001#34).getLsbD 0 ≠ false ∧ (0x108000408#34).extractLsb' 27 5 ≠ 0#5
    ∧ g1Leaf.leaf.ports.cfg_o = 1#1 ∧ (testState testParams []).leaf.ports.cfg_o = 0#1 :=
  ⟨fun _ => rfl, by decide, by decide, by decide, by decide, by decide, by decide, by decide⟩
theorem witness_LfsrStepInStageTerms : stage (lfsrShift 0x201 false) 2 = true
    ∧ stage (lfsrShift 0x100 false) 10 = true := by decide
theorem witness_ReferencePeriodsAre1023 : stagesAfter 0x204 1 ≠ 0x3FF ∧ stagesAfter 0x3A6 1 ≠ 0x3FF := by decide
/-- Each clause: out of range on both sides, each CONFIG cause, below and from `DELAY_FROM`. -/
theorem witness_ResolveFollowsItsChecks :
    resolve testParams 0 = .error .range ∧ resolve testParams 64 = .error .range
    ∧ resolve { testParams with taps := { testParams.taps with g1 := none } } 1 = .error .config
    ∧ resolve { testParams with taps := { testParams.taps with g2 := some [0, 11] } } 1 = .error .config
    ∧ resolve { testParams with taps := { testParams.taps with outTaps := [(1, [2])] } } 1 = .error .config
    ∧ resolve testParams 63 = .error .config
    ∧ resolve testParams 38 = .ok { svPrn := 1, g1Fbm := 0x204, g2Fbm := 0x3A6, g2Outm := 0x022, dlyv := false, delay := 0 }
    ∧ resolve testParams 39 = .ok { svPrn := 2, g1Fbm := 0x204, g2Fbm := 0x3A6, g2Outm := 0x044, dlyv := true, delay := 39 }
    := by decide
theorem witness_PrnInitFollowsResolve :
    resolve (sv1 []).params 1 = .ok { svPrn := 1, g1Fbm := 0x204, g2Fbm := 0x3A6, g2Outm := 0x022, dlyv := false, delay := 0 }
    ∧ resolve (sv1 []).params 0 = .error .range := by decide
/-- The two ways a delay may stand: SV 38 below `DELAY_FROM`, SV 39 from it on. -/
theorem witness_PrnInitConfiguresFromTable :
    (sv1 []).params.taps.g1 = some [3, 10] ∧ (sv1 []).params.taps.g2 = some [2, 3, 6, 8, 9, 10]
    ∧ outTapsAt (sv1 []).params.taps 1 = some [2, 6] ∧ outTapsAt (sv1 []).params.taps 2 = some [3, 7]
    ∧ (∀ l ∈ [[3, 10], [2, 3, 6, 8, 9, 10], [2, 6], [3, 7]], ∀ x ∈ l, (1 : Int) ≤ x ∧ x ≤ 10)
    ∧ 38 < firstDelaySv (sv1 []).params.delayFrom ∧ firstDelaySv (sv1 []).params.delayFrom ≤ 39
    ∧ delayAt (sv1 []).params.taps 39 = some ((39 : Nat) : Int) ∧ 39 < 2 ^ (sv1 []).params.delayW.val := by decide
theorem witness_SvOutOfRangeFails : (0 < 1 ∨ 63 < 0) ∧ (64 < 1 ∨ 63 < 64) := by decide
theorem witness_PrnNextProducesOneChip : (testState testParams []).top.cfg = false
    ∧ ((sv1At 1023 []).top.cfg = true ∧ 1023 ≤ (sv1At 1023 []).top.iter.toNat)
    ∧ ((sv1At 1022 []).top.cfg = true ∧ (sv1At 1022 []).top.iter.toNat < 1023) := by decide
theorem witness_ExhaustedUntilInitOrReset :
    (sv1At 1023 [.bus (.write 0 4 0x02000000)]).pending = [.bus (.write 0 4 0x02000000)]
    ∧ (sv1At 1023 [.bus (.write 0 4 0x02000000)]).top.cfg = true
    ∧ (sv1At 1023 [.bus (.write 0 4 0x02000000)]).top.iter.toNat = 1023
    ∧ isTopReset (.bus (.write 0 4 0x02000000)) = false
    ∧ instrOf (.bus (.write 0 4 0x02000000)) = some .prnNext
    ∧ step (sv1At 1023 [.bus (.write 0 4 0x02000000)])
      = .next (stateOf (step (sv1At 1023 [.bus (.write 0 4 0x02000000)]))) := ⟨rfl, rfl, rfl, rfl, rfl, rfl⟩

/-- The configured block meets the top's invariant. -/
theorem sv1_topInv : TopInv (sv1 []).params (sv1 []).top where
  iterLe := by decide
  cellsAbove := fun i _ => by
    show chipCell 0#1023 i = false
    simp [chipCell]
  unconfigured := fun h => by cases h
  configured := fun _ => ⟨_, rfl, rfl, rfl, rfl, rfl, rfl, rfl, rfl, rfl, rfl⟩
  chipValid := fun h => by cases h
  chipZero := fun _ => rfl
  errRecorded := fun h => absurd rfl h

/-- The exec of an instruction that completes is the state it leaves. -/
theorem next_stateOf {o : Host.Outcome State Fault Refusal} (h : ∃ t, o = .next t) : o = .next (stateOf o) := by
  obtain ⟨t, rfl⟩ := h
  rfl

theorem witness_TopDrivesItsLeavesAsLeafOps :
    (∃ r t, resolve (sv1 []).params 1 = .ok r ∧ exec (.prnInit 1) (sv1 []) = .next t
      ∧ validIndexMask 0x0408 = true ∧ validIndexMask 0x074C = true ∧ validIndexMask 0x0044 = true
      ∧ stageMaskOfIndexMask 0x0408 = r.g1Fbm ∧ stageMaskOfIndexMask 0x074C = r.g2Fbm
      ∧ stageMaskOfIndexMask 0x0044 = r.g2Outm)
    ∧ (TopInv (sv1 []).params (sv1 []).top ∧ (sv1 []).top.cfg = true ∧ (sv1 []).top.iter.toNat < 1023
      ∧ ∃ t, exec .prnNext (sv1 []) = .next t) :=
  ⟨⟨_, _, rfl, rfl, by decide, by decide, by decide, by decide, by decide, by decide⟩, sv1_topInv, rfl, by decide, _, rfl⟩
/-- The last named address and the first address above the map; the write to CMD and one to STATUS. -/
theorem witness_AccessesAdmittedOrRefused :
    (sv1 []).params.wellFormed = true ∧ (sv1 [.bus (.read 0x17C 4)]).pending = [.bus (.read 0x17C 4)]
    ∧ named 0x17C ∧ ¬ named 0x180 ∧ named 0x020 ∧ ¬ named 0x024 ∧ ¬ named 0x0FC ∧ named 0x100
    ∧ (sv1 [.bus (.write 0x004 4 0)]).pending = [.bus (.write 0x004 4 0)] := by
  unfold named
  decide
/-- The first and the last address, and each error code on report. -/
theorem witness_RegisterLayouts : (sv1 []).params.wellFormed = true ∧ named 0x000 ∧ named 0x17C
    ∧ (sv1 [.bus (.read 0x17C 4)]).pending = [.bus (.read 0x17C 4)]
    ∧ ∀ e : TopErr, ((sv1 [.bus (.read 4 4)]).setTop { (sv1 []).top with err := e }).top.err = e
        ∧ ((sv1 [.bus (.read 4 4)]).setTop { (sv1 []).top with err := e }).pending = [.bus (.read 4 4)] := by
  unfold named
  refine ⟨by decide, by decide, by decide, by decide, fun _ => ⟨rfl, rfl⟩⟩
theorem witness_RdChipReadsItsCell : (sv1 []).params.wellFormed = true ∧ 1022 ≤ 1022
    ∧ (sv1 (assemble (.rdChip 1022))).pending = assemble (.rdChip 1022) ++ [] := by decide
theorem witness_StatusReadSeesTheCommand :
    (sv1 [.bus (.write 0 4 0x02000000), .bus (.read 4 4)]).pending = [.bus (.write 0 4 0x02000000), .bus (.read 4 4)]
    ∧ (sv1 []).params.wellFormed = true ∧ decode (.cmd 0x02000000) = .ok .prnNext
    ∧ ∃ t, step (sv1 [.bus (.write 0 4 0x02000000), .bus (.read 4 4)]) = .next t := ⟨rfl, by decide, by decide, _, rfl⟩
theorem witness_PlatformAddressesReachTheWindow : 0xFFF < 2 ^ testParams.addrW
    ∧ Access.ofPlatform testParams (.read 0x4FFF 4) = some (.read 0xFFF 4) := by decide
theorem witness_ResetOperationRestoresResetState :
    (sv1 [.topReset (some (.read 0 4))]).pending = [.topReset (some (.read 0 4))]
    ∧ (sv1 [.leafReset (some 0x200000000)]).pending = [.leafReset (some 0x200000000)] := by decide
theorem witness_LeafInvariantKept : LeafInv g1Leaf.leaf
    ∧ ∃ t, step (g1Leaf.setPending [.leafOp 0x200000000]) = .next t :=
  ⟨⟨by decide, by decide, by decide⟩, _, rfl⟩
theorem witness_TopInvariantKept : TopInv (sv1 []).params (sv1 []).top
    ∧ ∃ t, step (sv1 [.bus (.write 0 4 0x02000000)]) = .next t := ⟨sv1_topInv, _, rfl⟩
theorem witness_CodeHistoryKept : CodeInv (sv1 []).top
    ∧ ∃ t, step (sv1 [.bus (.write 0 4 0x02000000)]) = .next t :=
  ⟨⟨fun _ => rfl, fun _ => rfl, fun _ _ h => absurd h (Nat.not_lt_zero _)⟩, _, rfl⟩
theorem witness_ParametersAreImmutable : ∃ t, step (sv1 [.topReset none]) = .next t := ⟨_, rfl⟩
theorem witness_LeafAndTopAreIndependent :
    (sv1 [.leafOp 0x200000000]).pending = [.leafOp 0x200000000]
    ∧ (∃ t, step (sv1 [.leafOp 0x200000000]) = .next t) ∧ isLeafReset (.leafReset none) = true
    ∧ (∃ t, step (sv1 [.bus (.read 0x24 4)]) = .next t) ∧ isTopReset (.topReset none) = true :=
  ⟨rfl, ⟨_, rfl⟩, rfl, ⟨_, rfl⟩, rfl⟩
theorem witness_OnlyTheListedWritersWrite :
    (sv1 [.leafOp 0x300000000]).pending = [.leafOp 0x300000000] ∧ (∃ t, step (sv1 [.leafOp 0x300000000]) = .next t)
    ∧ isLeafReset (.leafOp 0x300000000) = false ∧ instrOf (.leafOp 0x300000000) = some (.srRsvd 0 0)
    ∧ isTopReset (.leafOp 0x300000000) = false ∧ isCommandWrite (.leafOp 0x300000000) = false :=
  ⟨rfl, ⟨_, rfl⟩, rfl, rfl, rfl, rfl⟩
/-- The clauses where a writer's instruction is no writer, or no error is reported: a failed SR.STEP, a PRN.NEXT at
`ITER` 1023 and one that is not configured, an admitted read at the last address, a leaf op, and a PRN.NEXT without an
error. -/
theorem witness_OnlyTheListedWritersWrite_no_writer :
    ¬ stepsLeaf (testState testParams [.leafOp 0x200000000]) (.leafOp 0x200000000)
    ∧ ¬ producesChip (sv1At 1023 [.bus (.write 0 4 0x02000000)]) (.bus (.write 0 4 0x02000000))
    ∧ ¬ producesChip (testState testParams [.bus (.write 0 4 0x02000000)]) (.bus (.write 0 4 0x02000000))
    ∧ (sv1 []).params.wellFormed = true
    ∧ (isTopReset (.bus (.read 0x17C 4)) = false ∧ isCommandWrite (.bus (.read 0x17C 4)) = false
      ∧ ¬ isRefusedAccess (.bus (.read 0x17C 4)))
    ∧ ¬ reportsTopError (sv1 [.leafOp 0x300000000]) (.leafOp 0x300000000)
    ∧ ¬ reportsTopError (sv1At 1023 [.bus (.write 0 4 0x02000000)]) (.bus (.write 0 4 0x02000000)) := by
  have hn : instrOf (.bus (.write 0 4 0x02000000)) = some .prnNext := rfl
  have hr : instrOf (.leafOp 0x300000000) = some (.srRsvd 0 0) := rfl
  have hk : isCommandWrite (.leafOp 0x300000000) = false := rfl
  refine ⟨?_, ?_, ?_, by decide, ⟨rfl, rfl, ?_⟩, ?_, ?_⟩
  · rintro ⟨-, h⟩
    cases h
  · rintro ⟨-, -, h⟩
    exact absurd h (by decide)
  · rintro ⟨-, h, -⟩
    cases h
  · exact fun h => h ⟨rfl, by unfold named; decide⟩
  · rintro (h | ⟨h, -⟩ | ⟨v, e, h, -⟩ | ⟨h, -⟩)
    · exact h
    · cases hk.symm.trans h
    · cases hr.symm.trans h
    · cases hr.symm.trans h
  · rintro (h | ⟨-, h⟩ | ⟨v, e, h, -⟩ | ⟨-, h⟩)
    · exact h ⟨rfl, rfl⟩
    · cases hn.symm.trans h
    · cases hn.symm.trans h
    · cases h
theorem witness_ErrAnyIsSticky :
    ((sv1 [.bus (.write 0 4 0x02000000)]).setTop { (sv1 []).top with errAny := true }).top.errAny = true
    ∧ isTopReset (.bus (.write 0 4 0x02000000)) = false
    ∧ ∃ t, step ((sv1 [.bus (.write 0 4 0x02000000)]).setTop { (sv1 []).top with errAny := true }) = .next t :=
  ⟨rfl, rfl, _, rfl⟩
theorem witness_OnlyPrnInitReadsTheTable : (∀ v, Instr.prnNext ≠ .prnInit v)
    ∧ (∃ t, exec .prnNext (sv1 []) = .next t) ∧ ∃ t, exec (.prnInit 1) (sv1 []) = .next t :=
  ⟨fun _ => by simp, ⟨_, rfl⟩, _, rfl⟩
/-- Two tables that differ in the delay of SV 39 and both resolve it. -/
theorem witness_DelayIsNeverApplied :
    (∃ r, resolve testParams 39 = .ok r)
    ∧ (∃ r, resolve { testParams with taps := { testParams.taps with delays := [(39, 1023)] } } 39 = .ok r)
    ∧ ∃ t, exec (.prnInit 39) (testState testParams []) = .next t := ⟨⟨_, rfl⟩, ⟨_, rfl⟩, _, rfl⟩
theorem witness_GenerationRunGivesTheCode : ∃ r, resolve (testState testParams []).params 37 = .ok r := ⟨_, rfl⟩
theorem witness_RunsFromAnyStateAgree : (sv1Chip []).params = (testState testParams []).params
    ∧ ∃ r, resolve (testState testParams []).params 1 = .ok r := ⟨rfl, _, rfl⟩
/-- SV 38 (no delay looked up) and SV 39 (one looked up) both resolve, and so do their base IDs. -/
theorem witness_AliasedSvIdsGiveTheSameCode :
    (∃ r, resolve testParams 38 = .ok r) ∧ (∃ r, resolve testParams (38 - 37) = .ok r)
    ∧ (∃ r, resolve testParams 39 = .ok r) ∧ ∃ r, resolve testParams (39 - 37) = .ok r :=
  ⟨⟨_, rfl⟩, ⟨_, rfl⟩, ⟨_, rfl⟩, _, rfl⟩
theorem witness_FirstTenChipsMatchTheReference :
    (testState testParams []).params.taps = referenceTaps [(38, 38), (39, 39)] ∧ 1 ≤ 37 ∧ 37 ≤ 37 := by decide

end Sys2Proof.Tests
end

/-! SUPPORT. Proofs of the statements about the state (10_state.md): what an instruction does to each part of the state,
case by case; what a step does, on top of it; then the invariants, the writers and the parameters. -/

namespace Sys2Proof.Proofs

open Sys2Proof.Machine Sys2Proof.Safety

/-! ### What each instruction answers, case by case -/

section Exec

variable {s t : State} {i : Instr}

theorem exec_srInit_valid {o f : IndexMask} (hv : validIndexMask f = true ∧ validIndexMask o = true) :
    exec (.srInit o f) s
      = .next (s.setLeaf (s.leaf.configure (stageMaskOfIndexMask f) (stageMaskOfIndexMask o))) := by
  simp only [exec, execSrInit, if_pos hv]

theorem exec_srInit_invalid {o f : IndexMask} (hv : ¬ (validIndexMask f = true ∧ validIndexMask o = true)) :
    exec (.srInit o f) s = .next (s.setLeaf (s.leaf.unconfigure .config)) := by
  simp only [exec, execSrInit, if_neg hv]

theorem exec_srStep_configured {o f : IndexMask} (hc : s.leaf.cfg = true) :
    exec (.srStep o f) s = .next (s.setLeaf s.leaf.advance) := by
  simp only [exec, execSrStep, if_pos hc]

theorem exec_srStep_unconfigured {o f : IndexMask} (hc : s.leaf.cfg = false) :
    exec (.srStep o f) s = .next (s.setLeaf (s.leaf.raise .notConfigured)) := by
  simp [exec, execSrStep, hc]

theorem exec_prnInit_cases {v : Nat} (h : exec (.prnInit v) s = .next t) :
    (∃ r, resolve s.params v = .ok r ∧ t = s.setTop (s.top.configure v r))
    ∨ (∃ e, resolve s.params v = .error e ∧ t = s.setTop (s.top.unconfigure e)) := by
  cases hr : resolve s.params v with
  | ok r =>
    rw [exec_prnInit_ok hr] at h
    cases h
    exact .inl ⟨r, rfl, rfl⟩
  | error e =>
    rw [exec_prnInit_error hr] at h
    cases h
    exact .inr ⟨e, rfl, rfl⟩

theorem exec_prnNext_cases (h : exec .prnNext s = .next t) :
    (s.top.cfg = false ∧ t = s.setTop (s.top.raise .notConfigured))
    ∨ (s.top.cfg = true ∧ 1023 ≤ s.top.iter.toNat ∧ t = s.setTop (s.top.succeed false false))
    ∨ (s.top.cfg = true ∧ s.top.iter.toNat < 1023 ∧ t = s.setTop s.top.produceChip) := by
  cases hc : s.top.cfg with
  | false =>
    rw [exec_prnNext_unconfigured hc] at h
    cases h
    exact .inl ⟨rfl, rfl⟩
  | true =>
    rcases Nat.lt_or_ge s.top.iter.toNat 1023 with hi | hi
    · rw [exec_prnNext_chip hc hi] at h
      cases h
      exact .inr (.inr ⟨rfl, hi, rfl⟩)
    · rw [exec_prnNext_exhausted hc hi] at h
      cases h
      exact .inr (.inl ⟨rfl, hi, rfl⟩)

theorem exec_srIdle_next {o f : IndexMask} (h : exec (.srIdle o f) s = .next t) : t = s := by
  cases h
  rfl

theorem exec_srInit_cases {o f : IndexMask} (h : exec (.srInit o f) s = .next t) :
    ((validIndexMask f = true ∧ validIndexMask o = true)
      ∧ t = s.setLeaf (s.leaf.configure (stageMaskOfIndexMask f) (stageMaskOfIndexMask o)))
    ∨ (¬ (validIndexMask f = true ∧ validIndexMask o = true) ∧ t = s.setLeaf (s.leaf.unconfigure .config)) := by
  by_cases hv : validIndexMask f = true ∧ validIndexMask o = true
  · rw [exec_srInit_valid hv] at h
    cases h
    exact .inl ⟨hv, rfl⟩
  · rw [exec_srInit_invalid hv] at h
    cases h
    exact .inr ⟨hv, rfl⟩

theorem exec_srStep_cases {o f : IndexMask} (h : exec (.srStep o f) s = .next t) :
    (s.leaf.cfg = true ∧ t = s.setLeaf s.leaf.advance)
    ∨ (s.leaf.cfg = false ∧ t = s.setLeaf (s.leaf.raise .notConfigured)) := by
  cases hc : s.leaf.cfg with
  | true =>
    rw [exec_srStep_configured hc] at h
    cases h
    exact .inl ⟨rfl, rfl⟩
  | false =>
    rw [exec_srStep_unconfigured hc] at h
    cases h
    exact .inr ⟨rfl, rfl⟩

theorem exec_srRsvd_next {o f : IndexMask} (h : exec (.srRsvd o f) s = .next t) :
    t = s.setLeaf (s.leaf.raise .illegal) := by
  cases h
  rfl

/-- No instruction writes the parameters. -/
theorem exec_params (h : exec i s = .next t) : t.params = s.params := by
  obtain ⟨l, u, he, -, -⟩ := exec_moves i s
  rw [he] at h
  cases h
  rfl

/-- The instructions of the leaf's op port; the others are the top's commands. -/
def isLeafOp : Instr → Bool
  | .prnInit _ => false
  | .prnNext => false
  | .srIdle _ _ => true
  | .srInit _ _ => true
  | .srStep _ _ => true
  | .srRsvd _ _ => true

/-- An instruction is an op of the leaf, or one of the top's two commands. -/
theorem leafOp_or_command (i : Instr) : isLeafOp i = true ∨ (∃ v, i = .prnInit v) ∨ i = .prnNext := by
  cases i with
  | prnInit v => exact .inr (.inl ⟨v, rfl⟩)
  | prnNext => exact .inr (.inr rfl)
  | srIdle o f => exact .inl rfl
  | srInit o f => exact .inl rfl
  | srStep o f => exact .inl rfl
  | srRsvd o f => exact .inl rfl

theorem isLeafOp_decodeSrop (w : Srop) : isLeafOp (decodeSrop w) = true := by
  unfold decodeSrop
  repeat' split
  all_goals rfl

/-- A leaf op writes the standalone leaf alone. -/
theorem exec_leafOp (hi : isLeafOp i = true) (h : exec i s = .next t) : ∃ l, t = s.setLeaf l := by
  cases i with
  | prnInit v => cases hi
  | prnNext => cases hi
  | srIdle o f => exact ⟨s.leaf, exec_srIdle_next h⟩
  | srInit o f =>
    rcases exec_srInit_cases h with ⟨-, ht⟩ | ⟨-, ht⟩
    · exact ⟨_, ht⟩
    · exact ⟨_, ht⟩
  | srStep o f =>
    rcases exec_srStep_cases h with ⟨-, ht⟩ | ⟨-, ht⟩
    · exact ⟨_, ht⟩
    · exact ⟨_, ht⟩
  | srRsvd o f => exact ⟨_, exec_srRsvd_next h⟩

theorem exec_prnInit_top {v : Nat} (h : exec (.prnInit v) s = .next t) : ∃ u, t = s.setTop u := by
  rcases exec_prnInit_cases h with ⟨r, -, ht⟩ | ⟨e, -, ht⟩
  · exact ⟨_, ht⟩
  · exact ⟨_, ht⟩

theorem exec_prnNext_top (h : exec .prnNext s = .next t) : ∃ u, t = s.setTop u := by
  rcases exec_prnNext_cases h with ⟨-, ht⟩ | ⟨-, -, ht⟩ | ⟨-, -, ht⟩
  · exact ⟨_, ht⟩
  · exact ⟨_, ht⟩
  · exact ⟨_, ht⟩

/-- No instruction clears `ERR_ANY`, not even a PRN.INIT (R35). -/
theorem exec_errAny (h : exec i s = .next t) (ha : s.top.errAny = true) : t.top.errAny = true := by
  rcases leafOp_or_command i with hi | ⟨v, rfl⟩ | rfl
  · obtain ⟨l, rfl⟩ := exec_leafOp hi h
    exact ha
  · rcases exec_prnInit_cases h with ⟨r, -, rfl⟩ | ⟨e, -, rfl⟩
    · exact ha
    · rfl
  · rcases exec_prnNext_cases h with ⟨-, rfl⟩ | ⟨-, -, rfl⟩ | ⟨-, -, rfl⟩
    · rfl
    · exact ha
    · exact ha

end Exec

/-! ### What a step leaves, by the operation it performs -/

section Step

variable {s t : State} {op : Operation} {rest : List Operation}

/-- `step_cons` for a step that answers `t`: an instruction ran, or each part of `t` is given. -/
theorem step_next_cases (hp : s.pending = op :: rest) (h : step s = .next t) :
    (∃ i r, instrOf op = some i ∧ exec i ((s.setPending rest).answer r) = .next t)
    ∨ (instrOf op = none ∧ t.params = s.params
        ∧ (t.leaf = s.leaf ∨ (isLeafReset op = true ∧ t.leaf = Leaf.reset))
        ∧ (t.top = s.top ∨ ((s.params.wellFormed = true → isRefusedAccess op) ∧ t.top = s.top.refuse)
            ∨ (isCommandWrite op = true ∧ t.top = s.top.raise .illegal)
            ∨ (isTopReset op = true ∧ t.top = Top.reset))) := by
  rcases step_cons hp with ⟨i, r, hop, hs⟩ | ⟨hop, l, u, r, hs, hl, hu⟩
  · exact .inl ⟨i, r, hop, hs.symm.trans h⟩
  · rw [hs] at h
    cases h
    exact .inr ⟨hop, rfl, hl, hu⟩

/-- An instruction that is not written to CMD comes over the leaf's op port. -/
theorem isLeafOp_of_not_commandWrite {i : Instr} (hop : instrOf op = some i) (hc : isCommandWrite op = false) :
    isLeafOp i = true := by
  cases op with
  | leafOp w =>
    cases hop
    exact isLeafOp_decodeSrop w
  | leafReset o => cases hop
  | topReset o => cases hop
  | bus a =>
    cases a with
    | read addr width => cases hop
    | write addr width v =>
      have hne : ¬ (addr = 0 ∧ width = 4) := of_decide_eq_false hc
      simp only [instrOf, if_neg hne] at hop
      cases hop

end Step

/-! ### The parameters (R40) -/

/-- Settles O36: an instruction keeps them, and the moves that are no instruction do too. -/
theorem parametersAreImmutable : Obligations.ParametersAreImmutable := by
  intro s t h
  cases hp : s.pending with
  | nil =>
    rw [step_nil hp] at h
    cases h
    rfl
  | cons op rest =>
    rcases step_next_cases hp h with ⟨i, r, -, he⟩ | ⟨-, hparams, -⟩
    · exact (exec_params he :)
    · exact hparams

/-! ### The leaf's invariant -/

theorem leafInv_reset : LeafInv Leaf.reset where
  unconfigured _ := ⟨rfl, rfl, rfl⟩
  outputValid h := by cases h
  outputZero _ := rfl

/-- An error report leaves the configuration and takes the output bit away. -/
theorem leafInv_raise {l : Leaf} (hl : LeafInv l) (e : LeafErr) : LeafInv (l.raise e) where
  unconfigured := hl.unconfigured
  outputValid h := by cases h
  outputZero _ := rfl

theorem leafInv_configure (l : Leaf) (fbm outm : Stages) : LeafInv (l.configure fbm outm) where
  unconfigured h := by cases h
  outputValid h := by cases h
  outputZero _ := rfl

theorem leafInv_unconfigure (l : Leaf) (e : LeafErr) : LeafInv (l.unconfigure e) where
  unconfigured _ := ⟨rfl, rfl, rfl⟩
  outputValid h := by cases h
  outputZero _ := rfl

theorem leafInv_advance {l : Leaf} (hc : l.cfg = true) : LeafInv l.advance where
  unconfigured h := by cases hc.symm.trans h
  outputValid _ := ⟨hc, rfl⟩
  outputZero h := by cases h

theorem leafMove_keeps_leafInv {l l' : Leaf} (hm : LeafMove l l') (hl : LeafInv l) : LeafInv l' := by
  cases hm with
  | stay => exact hl
  | configure fbm outm => exact leafInv_configure l fbm outm
  | unconfigure => exact leafInv_unconfigure l .config
  | advance hc => exact leafInv_advance hc
  | notConfigured => exact leafInv_raise hl .notConfigured
  | illegal => exact leafInv_raise hl .illegal
  | reset => exact leafInv_reset

/-- Settles O32: each move of the leaf keeps the invariant. -/
theorem leafInvariantKept : Obligations.LeafInvariantKept :=
  fun _ _ hl h => leafMove_keeps_leafInv (step_moves h).1 hl

/-! ### The top's invariant -/

section TopInvariant

variable {p : Params} {t : Top}

/-- The unconfigured top, with an error on report or none. -/
theorem topInv_unconfigured {e : TopErr} {a : Bool} (ha : e ≠ .none → a = true) :
    TopInv p { Top.reset with err := e, errAny := a } where
  iterLe := Nat.zero_le _
  cellsAbove i _ := chipCell_zero i
  unconfigured _ := rfl
  configured h := by cases h
  chipValid h := by cases h
  chipZero _ := rfl
  errRecorded := ha

theorem topInv_reset : TopInv p Top.reset :=
  topInv_unconfigured (fun h => absurd rfl h)

/-- A report of a command that yields no chip, with an error or without. -/
theorem topInv_report (ht : TopInv p t) {e : TopErr} {a : Bool} (ha : e ≠ .none → a = true) :
    TopInv p { t with err := e, errAny := a, valid := false, chip := false } where
  iterLe := ht.iterLe
  cellsAbove := ht.cellsAbove
  unconfigured h := by
    rw [ht.unconfigured h]
    rfl
  configured := ht.configured
  chipValid h := by cases h
  chipZero _ := rfl
  errRecorded := ha

/-- A refused access leaves the last chip on report (R55). -/
theorem topInv_refuse (ht : TopInv p t) : TopInv p t.refuse where
  iterLe := ht.iterLe
  cellsAbove := ht.cellsAbove
  unconfigured h := by
    rw [ht.unconfigured h]
    rfl
  configured := ht.configured
  chipValid := ht.chipValid
  chipZero := ht.chipZero
  errRecorded _ := rfl

/-- What PRN.INIT stores reads back as what the table gave: `SV`, `SVPRN` and `DELAY` fit their fields. -/
theorem topInv_configure {v : Nat} {r : Resolution} (hr : resolve p v = .ok r) : TopInv p (t.configure v r) where
  iterLe := Nat.zero_le _
  cellsAbove i _ := chipCell_zero i
  unconfigured h := by cases h
  configured _ := by
    obtain ⟨⟨-, hv⟩, hprn, -, -, -, hdelay⟩ := resolve_ok hr
    have hsv : (BitVec.ofNat 6 v).toNat = v := Nat.mod_eq_of_lt (by omega)
    have hsvPrn : (BitVec.ofNat 6 r.svPrn).toNat = r.svPrn := Nat.mod_eq_of_lt (hprn ▸ svPrnOf_lt hv)
    have hd : (BitVec.ofNat 32 r.delay).toNat = r.delay := Nat.mod_eq_of_lt <|
      (resolveDelay_ok hdelay).1.trans_le (Nat.pow_le_pow_right (by decide) (Nat.le_of_lt_succ p.delayW.isLt))
    exact ⟨r, (congrArg (resolve p) hsv).trans hr, hsvPrn, rfl, rfl, rfl, rfl, rfl, hd, rfl, rfl⟩
  chipValid h := by cases h
  chipZero _ := rfl
  errRecorded h := absurd rfl h

theorem topInv_produceChip (ht : TopInv p t) (hc : t.cfg = true) (hi : t.iter.toNat < 1023) :
    TopInv p t.produceChip := by
  have hn : (t.iter + 1).toNat = t.iter.toNat + 1 := iter_succ_toNat _ hi
  rw [Top.produceChip_eq]
  exact {
    iterLe := hn.trans_le hi
    cellsAbove := fun j hj => by
      have hlt : t.iter.toNat < j := hn.symm.trans_le hj
      rw [chipCell_setChipCell _ _ _ _ hi, if_neg hlt.ne']
      exact ht.cellsAbove j hlt.le
    unconfigured := fun h => by cases hc.symm.trans h
    configured := ht.configured
    chipValid := fun _ => by
      refine ⟨hc, hn.symm ▸ Nat.succ_pos _, ?_⟩
      rw [chipCell_setChipCell _ _ _ _ hi, hn, if_pos (Nat.add_sub_cancel _ _)]
    chipZero := fun h => by cases h
    errRecorded := fun h => absurd rfl h }

theorem topMove_keeps_topInv {t' : Top} (hm : TopMove p t t') (ht : TopInv p t) : TopInv p t' := by
  cases hm with
  | stay => exact ht
  | configure v r hr => exact topInv_configure hr
  | unconfigure => exact topInv_unconfigured fun _ => rfl
  | notConfigured => exact topInv_report ht fun _ => rfl
  | exhausted => exact topInv_report ht fun h => absurd rfl h
  | chip hc hi => exact topInv_produceChip ht hc hi
  | illegal => exact topInv_report ht fun _ => rfl
  | refuse => exact topInv_refuse ht
  | reset => exact topInv_reset

end TopInvariant

/-- Settles O33: each move of the top keeps the invariant, and no step writes the parameters it speaks of. -/
theorem topInvariantKept : Obligations.TopInvariantKept := by
  intro s t ht h
  rw [parametersAreImmutable s t h]
  exact topMove_keeps_topInv (step_moves h).2 ht

/-! ### The code history -/

section CodeHistory

variable {t : Top}

/-- The unconfigured top has no history to keep. -/
theorem codeInv_of_unconfigured (hc : t.cfg = false) : CodeInv t where
  g1Stages h := by cases hc.symm.trans h
  g2Stages h := by cases hc.symm.trans h
  cells h := by cases hc.symm.trans h

/-- A successful PRN.INIT begins the history at the fill. -/
theorem codeInv_configure (v : Nat) (r : Resolution) : CodeInv (t.configure v r) :=
  ⟨fun _ => rfl, fun _ => rfl, fun _ i hi => absurd hi (Nat.not_lt_zero i)⟩

/-- In a block that keeps its history the next chip is chip `ITER` of the code. -/
theorem nextChip_eq_codeChip (ht : CodeInv t) (hc : t.cfg = true) :
    t.nextChip = codeChip t.g1.fbm t.g1.outm t.g2.fbm t.g2.outm t.iter.toNat := by
  rw [Top.nextChip, codeChip, ht.g1Stages hc, ht.g2Stages hc]

theorem advance_s_eq_stagesAfter {l : Leaf} {n : Nat} (hl : l.s = stagesAfter l.fbm n) :
    l.advance.s = stagesAfter l.fbm (n + 1) := by
  rw [Leaf.advance_s, hl, stagesAfter]

theorem codeInv_produceChip (ht : CodeInv t) (hc : t.cfg = true) (hi : t.iter.toNat < 1023) :
    CodeInv t.produceChip := by
  have hn : (t.iter + 1).toNat = t.iter.toNat + 1 := iter_succ_toNat _ hi
  rw [Top.produceChip_eq]
  exact {
    g1Stages := fun _ => (advance_s_eq_stagesAfter (ht.g1Stages hc)).trans (congrArg _ hn.symm)
    g2Stages := fun _ => (advance_s_eq_stagesAfter (ht.g2Stages hc)).trans (congrArg _ hn.symm)
    cells := fun _ j hj => by
      have hle : j ≤ t.iter.toNat := Nat.le_of_lt_succ (hj.trans_eq hn)
      rw [chipCell_setChipCell _ _ _ _ hi]
      split
      · next hje =>
        rw [hje]
        exact nextChip_eq_codeChip ht hc
      · next hne => exact ht.cells hc j (lt_of_le_of_ne hle hne) }

theorem topMove_keeps_codeInv {p : Params} {t' : Top} (hm : TopMove p t t') (ht : CodeInv t) : CodeInv t' := by
  have hreport : ∀ e a v c, CodeInv { t with err := e, errAny := a, valid := v, chip := c } :=
    fun _ _ _ _ => ⟨ht.g1Stages, ht.g2Stages, ht.cells⟩
  cases hm with
  | stay => exact ht
  | configure v r => exact codeInv_configure v r
  | unconfigure => exact codeInv_of_unconfigured rfl
  | notConfigured => exact hreport ..
  | exhausted => exact hreport ..
  | chip hc hi => exact codeInv_produceChip ht hc hi
  | illegal => exact hreport ..
  | refuse => exact hreport ..
  | reset => exact codeInv_of_unconfigured rfl

end CodeHistory

/-- Settles O34: each move of the top keeps the history; a chip-producing PRN.NEXT extends it by one chip. -/
theorem codeHistoryKept : Obligations.CodeHistoryKept :=
  fun _ _ ht h => topMove_keeps_codeInv (step_moves h).2 ht

/-! ### Reset -/

/-- Settles O30: the reset state is the one written out, and `STATUS` of a reset top is 0. -/
theorem resetValues : Obligations.ResetValues := by
  have hstatus : statusWord Top.reset = 0 := by decide
  exact fun p => ⟨rfl, rfl, rfl, hstatus⟩

/-- Settles O35. -/
theorem invariantsHoldAtReset : Obligations.InvariantsHoldAtReset :=
  fun _ => ⟨leafInv_reset, topInv_reset, codeInv_of_unconfigured rfl⟩

/-! ### The leaf's ports -/

/-- Settles O46: each port is its field, as a bit or as the code of R151. -/
theorem leafPortsDriveTheState : Obligations.LeafPortsDriveTheState := by
  have hbit : ∀ b : Bool, (b = true → BitVec.ofBool b = 1#1) ∧ (b = false → BitVec.ofBool b = 0#1) := by decide
  have herr : ∀ e : LeafErr, (e = .none → e.code = 0#3) ∧ (e = .config → e.code = 2#3)
      ∧ (e = .notConfigured → e.code = 3#3) ∧ (e = .illegal → e.code = 4#3) := by
    intro e
    cases e <;> decide
  intro l
  obtain ⟨hnone, hconfig, hnotConfigured, hillegal⟩ := herr l.err
  exact ⟨rfl, (hbit l.cfg).1, (hbit l.cfg).2, hnone, hconfig, hnotConfigured, hillegal, (hbit l.ov).1, (hbit l.ov).2,
    (hbit l.ob).1, (hbit l.ob).2⟩

/-! ### The leaves inside the top -/

/-- The op port's mask for G1's output taps: index 10 alone (R28). -/
theorem g1OutIdx_valid : validIndexMask 0x0400 = true ∧ stageMaskOfIndexMask 0x0400 = g1OutTaps := by decide

/-- Settles O23: PRN.INIT and a chip-producing PRN.NEXT apply to each leaf the very updates of SR.INIT and SR.STEP; the
top's invariant says that a configured top has configured leaves. -/
theorem topDrivesItsLeavesAsLeafOps : Obligations.TopDrivesItsLeavesAsLeafOps := by
  constructor
  · intro s t v r f1 f2 o2 hr h hf1 hf2 ho2 hm1 hm2 hmo
    rw [exec_prnInit_ok hr] at h
    cases h
    rw [exec_srInit_valid ⟨hf1, g1OutIdx_valid.1⟩, exec_srInit_valid ⟨hf2, ho2⟩, g1OutIdx_valid.2, hm1, hm2, hmo]
    exact ⟨rfl, rfl⟩
  · intro s t o f ht hc hi h
    rw [exec_prnNext_chip hc hi] at h
    cases h
    obtain ⟨r, -, -, -, -, -, -, -, -, hg1, hg2⟩ := ht.configured hc
    exact ⟨exec_srStep_configured hg1, exec_srStep_configured hg2⟩

/-! ### The writers of each element (R42) -/

section Writers

variable {s t : State} {op : Operation} {rest : List Operation}

/-- What an operation that configures no leaf leaves of the standalone leaf. -/
def LeafFrame (s : State) (op : Operation) (l : Leaf) : Prop :=
  l.fbm = s.leaf.fbm ∧ l.outm = s.leaf.outm ∧ l.cfg = s.leaf.cfg
  ∧ (¬ stepsLeaf s op → l.s = s.leaf.s)
  ∧ ((∀ o f, instrOf op ≠ some (.srStep o f)) → (∀ o f, instrOf op ≠ some (.srRsvd o f)) →
    l.err = s.leaf.err ∧ l.ov = s.leaf.ov ∧ l.ob = s.leaf.ob)

theorem leafFrame_refl : LeafFrame s op s.leaf :=
  ⟨rfl, rfl, rfl, fun _ => rfl, fun _ _ => ⟨rfl, rfl, rfl⟩⟩

theorem exec_leafFrame {i : Instr} (hop : instrOf op = some i) (h : exec i s = .next t)
    (hinit : ∀ o f, instrOf op ≠ some (.srInit o f)) : LeafFrame s op t.leaf := by
  cases i with
  | prnInit v =>
    obtain ⟨u, rfl⟩ := exec_prnInit_top h
    exact leafFrame_refl
  | prnNext =>
    obtain ⟨u, rfl⟩ := exec_prnNext_top h
    exact leafFrame_refl
  | srIdle o f =>
    cases exec_srIdle_next h
    exact leafFrame_refl
  | srInit o f => exact absurd hop (hinit o f)
  | srStep o f =>
    rcases exec_srStep_cases h with ⟨hc, rfl⟩ | ⟨-, rfl⟩
    · exact ⟨rfl, rfl, rfl, fun hn => absurd ⟨⟨o, f, hop⟩, hc⟩ hn, fun hn _ => absurd hop (hn o f)⟩
    · exact ⟨rfl, rfl, rfl, fun _ => rfl, fun hn _ => absurd hop (hn o f)⟩
  | srRsvd o f =>
    cases exec_srRsvd_next h
    exact ⟨rfl, rfl, rfl, fun _ => rfl, fun _ hn => absurd hop (hn o f)⟩

theorem step_leafFrame (hp : s.pending = op :: rest) (h : step s = .next t) (hr : isLeafReset op = false)
    (hinit : ∀ o f, instrOf op ≠ some (.srInit o f)) : LeafFrame s op t.leaf := by
  rcases step_next_cases hp h with ⟨i, r, hop, he⟩ | ⟨-, -, hl | ⟨hr', -⟩, -⟩
  · exact (exec_leafFrame hop he hinit :)
  · rw [hl]
    exact leafFrame_refl
  · cases hr.symm.trans hr'

/-- What an operation that configures no top leaves of the top. -/
def TopFrame (s : State) (op : Operation) (u : Top) : Prop :=
  u.cfg = s.top.cfg ∧ u.sv = s.top.sv ∧ u.svPrn = s.top.svPrn ∧ u.dlyv = s.top.dlyv
  ∧ u.delay = s.top.delay ∧ u.g1.fbm = s.top.g1.fbm ∧ u.g1.outm = s.top.g1.outm
  ∧ u.g2.fbm = s.top.g2.fbm ∧ u.g2.outm = s.top.g2.outm
  ∧ (¬ producesChip s op → u.g1 = s.top.g1 ∧ u.g2 = s.top.g2 ∧ u.iter = s.top.iter ∧ u.chips = s.top.chips)

/-- A report alone is within the frame. -/
theorem topFrame_report (e : TopErr) (a v c : Bool) :
    TopFrame s op { s.top with err := e, errAny := a, valid := v, chip := c } :=
  ⟨rfl, rfl, rfl, rfl, rfl, rfl, rfl, rfl, rfl, fun _ => ⟨rfl, rfl, rfl, rfl⟩⟩

theorem exec_topFrame {i : Instr} (hop : instrOf op = some i) (h : exec i s = .next t)
    (hinit : ∀ v, instrOf op ≠ some (.prnInit v)) : TopFrame s op t.top := by
  rcases leafOp_or_command i with hi | ⟨v, rfl⟩ | rfl
  · obtain ⟨l, rfl⟩ := exec_leafOp hi h
    exact topFrame_report ..
  · exact absurd hop (hinit v)
  · rcases exec_prnNext_cases h with ⟨-, rfl⟩ | ⟨-, -, rfl⟩ | ⟨hc, hi, rfl⟩
    · exact topFrame_report ..
    · exact topFrame_report ..
    · exact ⟨rfl, rfl, rfl, rfl, rfl, rfl, rfl, rfl, rfl, fun hn => absurd ⟨hop, hc, hi⟩ hn⟩

theorem step_topFrame (hp : s.pending = op :: rest) (h : step s = .next t) (hr : isTopReset op = false)
    (hinit : ∀ v, instrOf op ≠ some (.prnInit v)) : TopFrame s op t.top := by
  rcases step_next_cases hp h with ⟨i, r, hop, he⟩ | ⟨-, -, -, hu | ⟨-, hu⟩ | ⟨-, hu⟩ | ⟨hr', -⟩⟩
  · exact (exec_topFrame hop he hinit :)
  · rw [hu]
    exact topFrame_report ..
  · rw [hu]
    exact topFrame_report ..
  · rw [hu]
    exact topFrame_report ..
  · cases hr.symm.trans hr'

/-- Without a reset of the top or a command write the last chip stays on report, and without a refused access `ERR`
does too. -/
theorem step_report_frame (hp : s.pending = op :: rest) (h : step s = .next t) (hr : isTopReset op = false)
    (hw : isCommandWrite op = false) :
    t.top.valid = s.top.valid ∧ t.top.chip = s.top.chip
    ∧ (s.params.wellFormed = true → ¬ isRefusedAccess op → t.top.err = s.top.err) := by
  rcases step_next_cases hp h with ⟨i, r, hop, he⟩ | ⟨-, -, -, hu | ⟨href, hu⟩ | ⟨hw', -⟩ | ⟨hr', -⟩⟩
  · obtain ⟨l, rfl⟩ := exec_leafOp (isLeafOp_of_not_commandWrite hop hw) he
    exact ⟨rfl, rfl, fun _ _ => rfl⟩
  · rw [hu]
    exact ⟨rfl, rfl, fun _ _ => rfl⟩
  · rw [hu]
    exact ⟨rfl, rfl, fun hwf hn => absurd (href hwf) hn⟩
  · cases hw.symm.trans hw'
  · cases hr.symm.trans hr'

theorem exec_errAny_frame {i : Instr} (hop : instrOf op = some i) (h : exec i s = .next t)
    (hn : ¬ reportsTopError s op) : t.top.errAny = s.top.errAny := by
  rcases leafOp_or_command i with hi | ⟨v, rfl⟩ | rfl
  · obtain ⟨l, rfl⟩ := exec_leafOp hi h
    rfl
  · rcases exec_prnInit_cases h with ⟨r, -, rfl⟩ | ⟨e, he, -⟩
    · rfl
    · exact absurd (.inr (.inr (.inl ⟨v, e, hop, he⟩))) hn
  · rcases exec_prnNext_cases h with ⟨hc, -⟩ | ⟨-, -, rfl⟩ | ⟨-, -, rfl⟩
    · exact absurd (.inr (.inr (.inr ⟨hop, hc⟩))) hn
    · rfl
    · rfl

theorem step_errAny_frame (hp : s.pending = op :: rest) (h : step s = .next t) (hwf : s.params.wellFormed = true)
    (hr : isTopReset op = false) (hn : ¬ reportsTopError s op) : t.top.errAny = s.top.errAny := by
  rcases step_next_cases hp h with ⟨i, r, hop, he⟩ | ⟨hop, -, -, hu | ⟨href, -⟩ | ⟨hw, -⟩ | ⟨hr', -⟩⟩
  · exact (exec_errAny_frame hop he hn :)
  · rw [hu]
  · exact absurd (.inl (href hwf)) hn
  · exact absurd (.inr (.inl ⟨hw, hop⟩)) hn
  · cases hr.symm.trans hr'

end Writers

/-- Settles O38, one frame lemma for each row of the table. -/
theorem onlyTheListedWritersWrite : Obligations.OnlyTheListedWritersWrite :=
  fun _ _ _ _ hp h => ⟨step_leafFrame hp h, step_topFrame hp h, step_report_frame hp h, step_errAny_frame hp h⟩

/-- Settles O39: an instruction never clears it, and of the other moves only the reset of the top does. -/
theorem errAnyIsSticky : Obligations.ErrAnyIsSticky := by
  intro s t op rest hp hr ha h
  rcases step_next_cases hp h with ⟨i, r, -, he⟩ | ⟨-, -, -, hu | ⟨-, hu⟩ | ⟨-, hu⟩ | ⟨hr', -⟩⟩
  · exact exec_errAny he ha
  · rw [hu, ha]
  · rw [hu]
    rfl
  · rw [hu]
    rfl
  · cases hr.symm.trans hr'

/-! ### What the table and the delay do not reach -/

section Noninterference

variable {s t : State} {i : Instr}

/-- The state with other parameters, and with another delay stored: what only PRN.INIT reads or writes. -/
def withInputs (s : State) (p : Params) (d : Word) (dv : Bool) : State :=
  { s with params := p, top := { s.top with delay := d, dlyv := dv } }

/-- The state with other parameters. -/
def withParams (s : State) (p : Params) : State := { s with params := p }

/-- A leaf op sees and writes the standalone leaf alone: it does the same in any state with that leaf. -/
theorem exec_leafOp_congr (hi : isLeafOp i = true) (h : exec i s = .next t) {s' : State} (hs : s'.leaf = s.leaf) :
    exec i s' = .next (s'.setLeaf t.leaf) := by
  cases i with
  | prnInit v => cases hi
  | prnNext => cases hi
  | srIdle o f =>
    cases exec_srIdle_next h
    rw [← hs]
    rfl
  | srInit o f =>
    rcases exec_srInit_cases h with ⟨hv, rfl⟩ | ⟨hv, rfl⟩
    · rw [exec_srInit_valid hv, hs]
      rfl
    · rw [exec_srInit_invalid hv, hs]
      rfl
  | srStep o f =>
    rcases exec_srStep_cases h with ⟨hc, rfl⟩ | ⟨hc, rfl⟩
    · rw [exec_srStep_configured (hs ▸ hc), hs]
      rfl
    · rw [exec_srStep_unconfigured (hs ▸ hc), hs]
      rfl
  | srRsvd o f =>
    cases exec_srRsvd_next h
    rw [← hs]
    rfl

/-- An instruction other than PRN.INIT neither reads nor writes the parameters and the delay. -/
theorem exec_withInputs (hi : ∀ v, i ≠ .prnInit v) (h : exec i s = .next t) (p : Params) (d : Word) (dv : Bool) :
    exec i (withInputs s p d dv) = .next (withInputs t p d dv) := by
  rcases leafOp_or_command i with hl | ⟨v, rfl⟩ | rfl
  · rw [exec_leafOp_congr hl h (s' := withInputs s p d dv) rfl]
    obtain ⟨l, rfl⟩ := exec_leafOp hl h
    rfl
  · exact absurd rfl (hi v)
  · rcases exec_prnNext_cases h with ⟨hc, rfl⟩ | ⟨hc, hn, rfl⟩ | ⟨hc, hn, rfl⟩
    · exact exec_prnNext_unconfigured hc
    · exact exec_prnNext_exhausted hc hn
    · exact exec_prnNext_chip hc hn

/-- So it leaves them as they were. -/
theorem exec_keeps_inputs (hi : ∀ v, i ≠ .prnInit v) (h : exec i s = .next t) :
    withInputs t s.params s.top.delay s.top.dlyv = t :=
  Host.Outcome.next.inj ((exec_withInputs hi h _ _ _).symm.trans h)

theorem exec_withParams (hi : ∀ v, i ≠ .prnInit v) (h : exec i s = .next t) (p : Params) :
    exec i (withParams s p) = .next (withParams t p) :=
  (exec_withInputs hi h p s.top.delay s.top.dlyv).trans
    (congrArg (fun u => Host.Outcome.next (withParams u p)) (exec_keeps_inputs hi h))

theorem exec_withDelay (hi : ∀ v, i ≠ .prnInit v) (h : exec i s = .next t) (d : Word) (dv : Bool) :
    exec i { s with top := { s.top with delay := d, dlyv := dv } }
      = .next { t with top := { t.top with delay := d, dlyv := dv } } := by
  have ht : t.params = s.params := exec_params h
  have hd := exec_withInputs hi h s.params d dv
  rw [withInputs, withInputs, ← ht] at hd
  exact ht ▸ hd

/-- Resolution does not read the `first_ten_chips` column. -/
theorem resolve_firstTen (p : Params) (c : List (Nat × String)) (v : Nat) :
    resolve { p with taps := { p.taps with firstTen := c } } v = resolve p v := rfl

/-- Two tables that differ in their delays alone resolve alike but for the delay. -/
theorem resolve_delays {p : Params} {c : List (Nat × Int)} {v : Nat} {r r' : Resolution}
    (hr : resolve p v = .ok r) (hr' : resolve { p with taps := { p.taps with delays := c } } v = .ok r') :
    r' = { r with dlyv := r'.dlyv, delay := r'.delay } := by
  obtain ⟨⟨h1, h63⟩, hprn, hg1, hg2, hout, -⟩ := resolve_ok hr
  obtain ⟨-, -, -, -, -, hdelay⟩ := resolve_ok hr'
  have hparts := resolve_of_parts (p := { p with taps := { p.taps with delays := c } }) h1 h63 hg1 hg2 hout hdelay
  rw [← hprn] at hparts
  exact Except.ok.inj (hr'.symm.trans hparts)

end Noninterference

/-- Settles O40: the other instructions do not read the parameters, and resolution never reads `first_ten_chips`. -/
theorem onlyPrnInitReadsTheTable : Obligations.OnlyPrnInitReadsTheTable := by
  constructor
  · intro i s t p hi h
    exact exec_withParams hi h p
  · intro v s t c h
    rcases exec_prnInit_cases h with ⟨r, hr, rfl⟩ | ⟨e, he, rfl⟩
    · exact exec_prnInit_ok ((resolve_firstTen s.params c v).trans hr)
    · exact exec_prnInit_error ((resolve_firstTen s.params c v).trans he)

/-- Settles O41: the other instructions do not read the delay, and PRN.INIT takes everything but the delay from parts
of the table that the two tables share. -/
theorem delayIsNeverApplied : Obligations.DelayIsNeverApplied := by
  constructor
  · intro i s t d dv hi h
    exact exec_withDelay hi h d dv
  · rintro v s t c p r r' rfl hr hr' h
    rw [exec_prnInit_ok hr] at h
    cases h
    refine ⟨_, exec_prnInit_ok hr', ?_⟩
    rw [resolve_delays hr hr']
    rfl

end Sys2Proof.Proofs

/-! SUPPORT. Proofs of the statements about the register window and the accesses to it (20_memory.md): the register map,
what a step with an access pending answers, the chip buffer's words, the assembler's lines; then the chips of a run and
the reference table. -/

namespace Sys2Proof.Proofs

open Sys2Proof.Machine Sys2Proof.Safety

/-! ### The register map (R51, R52) -/

section RegisterMap

variable {p : Params} {a width : Nat} {r : HostReg}

theorem hostRegAt_addr (r : HostReg) : hostRegAt r.addr = some r := by
  have hchips : ∀ w : Fin 32, hostRegAt (HostReg.chips w).addr = some (.chips w) := by decide
  cases r with
  | chips w => exact hchips w
  | _ => rfl

theorem named_addr (r : HostReg) : named r.addr := by
  unfold named
  cases r with
  | chips w =>
    simp only [HostReg.addr]
    omega
  | _ => decide

/-- The map ends at 0x17F (R52). -/
theorem addr_lt (r : HostReg) : r.addr < 0x180 := by
  obtain ⟨-, h⟩ := named_addr r
  omega

theorem exists_addr_of_named (h : named a) : ∃ r : HostReg, a = r.addr := by
  obtain ⟨h4, hlow | ⟨h1, h2⟩⟩ := h
  · have hcases : a = 0x000 ∨ a = 0x004 ∨ a = 0x008 ∨ a = 0x00C ∨ a = 0x010 ∨ a = 0x014 ∨ a = 0x018 ∨ a = 0x01C
        ∨ a = 0x020 := by omega
    rcases hcases with h | h | h | h | h | h | h | h | h
    exacts [⟨.cmd, h⟩, ⟨.status, h⟩, ⟨.svid, h⟩, ⟨.delay, h⟩, ⟨.iter, h⟩, ⟨.g1State, h⟩, ⟨.g2State, h⟩, ⟨.g1Taps, h⟩,
      ⟨.g2Taps, h⟩]
  · refine ⟨.chips ⟨(a - 0x100) / 4, by omega⟩, ?_⟩
    simp only [HostReg.addr]
    omega

theorem named_iff_exists_addr : named a ↔ ∃ r : HostReg, a = r.addr :=
  ⟨exists_addr_of_named, fun ⟨r, hr⟩ => hr ▸ named_addr r⟩

theorem hostRegAt_of_not_named (h : ¬ named a) : hostRegAt a = none := by
  unfold named at h
  simp (disch := omega) only [hostRegAt, if_neg]

theorem hostRegAt_eq_some_iff : hostRegAt a = some r ↔ a = r.addr := by
  refine ⟨fun h => ?_, fun h => h ▸ hostRegAt_addr r⟩
  by_cases hn : named a
  · obtain ⟨r', rfl⟩ := exists_addr_of_named hn
    rw [hostRegAt_addr] at h
    cases h
    rfl
  · rw [hostRegAt_of_not_named hn] at h
    cases h

/-- In a window that holds the map a register is reached at its address and 4 bytes wide, and not otherwise (R54). -/
theorem addressedReg_eq_some_iff (hp : p.wellFormed = true) :
    addressedReg p a width = some r ↔ width = 4 ∧ a = r.addr := by
  constructor
  · intro h
    unfold addressedReg at h
    split at h
    case isTrue hw => exact ⟨hw.1, hostRegAt_eq_some_iff.mp h⟩
    case isFalse => cases h
  · rintro ⟨rfl, rfl⟩
    have hwindow : 0x180 ≤ 2 ^ p.addrW := by
      simp only [Params.wellFormed, Bool.and_eq_true, decide_eq_true_eq] at hp
      exact hp.2
    rw [addressedReg, if_pos ⟨rfl, (named_addr r).1, (addr_lt r).trans_le hwindow⟩, hostRegAt_addr]

theorem addressedReg_eq_none (hp : p.wellFormed = true) (h : ¬ (width = 4 ∧ named a)) :
    addressedReg p a width = none := by
  cases hr : addressedReg p a width with
  | none => rfl
  | some r =>
    obtain ⟨hw, ha⟩ := (addressedReg_eq_some_iff hp).mp hr
    exact absurd ⟨hw, ha ▸ named_addr r⟩ h

end RegisterMap

/-- Settles O24. -/
theorem registerMapIsExact : Obligations.RegisterMapIsExact :=
  ⟨fun _ _ => hostRegAt_eq_some_iff,
    fun _ => named_iff_exists_addr.trans (exists_congr fun _ => hostRegAt_eq_some_iff.symm)⟩

/-! ### A step with an access pending -/

section Accesses

variable {s t : State} {rest : List Operation} {addr width : Nat} {v : Word} {r : HostReg} {i : Instr}

theorem step_read_admitted (hp : s.pending = .bus (.read addr width) :: rest)
    (hr : addressedReg s.params addr width = some r) : step s = .next ((s.setPending rest).answerRead r) := by
  simp [step, fetch, hp, fetchOperation, fetchAccess, hr]

/-- A read of a register at its own address, in a window that holds the map. -/
theorem step_read_addr (hwf : s.params.wellFormed = true) (hp : s.pending = .bus (.read r.addr 4) :: rest) :
    step s = .next ((s.setPending rest).answerRead r) :=
  step_read_admitted hp ((addressedReg_eq_some_iff hwf).mpr ⟨rfl, rfl⟩)

theorem step_read_refused (hp : s.pending = .bus (.read addr width) :: rest)
    (hr : addressedReg s.params addr width = none) : step s = .next (s.setPending rest).refuseRead := by
  simp [step, fetch, hp, fetchOperation, fetchAccess, hr]

theorem step_write_refused (hp : s.pending = .bus (.write addr width v) :: rest) (hw : ¬ (width = 4 ∧ addr = 0)) :
    step s = .next (s.setPending rest).refuseWrite := by
  have hr : addressedReg s.params addr width ≠ some .cmd := fun hr => hw (addressedReg_eq_cmd.mp hr).symm
  simp [step, fetch, hp, fetchOperation, fetchAccess, hr]

theorem step_command (hp : s.pending = .bus (.write 0 4 v) :: rest) (hd : decode (.cmd v) = .ok i) :
    step s = exec i (s.setPending rest).answerWrite := by
  have hr : addressedReg s.params 0 4 = some .cmd := addressedReg_eq_cmd.mpr ⟨rfl, rfl⟩
  simp [step, fetch, hp, fetchOperation, fetchAccess, hr, fetchCommand, hd]

theorem step_illegalCommand {e : DecodeError} (hp : s.pending = .bus (.write 0 4 v) :: rest)
    (hd : decode (.cmd v) = .error e) : step s = .next (s.setPending rest).answerWrite.illegalCommand := by
  have hr : addressedReg s.params 0 4 = some .cmd := addressedReg_eq_cmd.mpr ⟨rfl, rfl⟩
  simp [step, fetch, hp, fetchOperation, fetchAccess, hr, fetchCommand, hd]

/-- No instruction presents an operation or answers an access. -/
theorem exec_interface (h : exec i s = .next t) : t.pending = s.pending ∧ t.response = s.response := by
  obtain ⟨l, u, he, -, -⟩ := exec_moves i s
  rw [he] at h
  cases h
  exact ⟨rfl, rfl⟩

/-- Every write to CMD is answered without an error, a legal word or not. -/
theorem step_commandWrite_response (hp : s.pending = .bus (.write 0 4 v) :: rest) :
    ∃ t, step s = .next t ∧ t.response = some { data := none, error := false } := by
  cases hd : decode (.cmd v) with
  | ok i =>
    obtain ⟨l, u, he, -, -⟩ := exec_moves i (s.setPending rest).answerWrite
    exact ⟨_, (step_command hp hd).trans he, rfl⟩
  | error e => exact ⟨_, step_illegalCommand hp hd, rfl⟩

end Accesses

/-- Settles O25, one step equation for each way an access can go. -/
theorem accessesAdmittedOrRefused : Obligations.AccessesAdmittedOrRefused := by
  intro s rest addr width v hwf
  refine ⟨fun hp => ⟨?_, fun hn => step_read_refused hp (addressedReg_eq_none hwf hn)⟩,
    fun hp => ⟨?_, step_write_refused hp⟩⟩
  · rintro ⟨rfl, hn⟩
    obtain ⟨r, rfl⟩ := exists_addr_of_named hn
    exact ⟨_, step_read_addr hwf hp⟩
  · rintro ⟨rfl, rfl⟩
    exact step_commandWrite_response hp

/-- Settles O28: the command leaves the read at the head of the list, and the parameters that map STATUS. -/
theorem statusReadSeesTheCommand : Obligations.StatusReadSeesTheCommand := by
  intro s t w i rest hp hwf hd h
  have he : exec i (s.setPending (.bus (.read HostReg.status.addr 4) :: rest)).answerWrite = .next t :=
    (step_command hp hd).symm.trans h
  have hparams : t.params = s.params := (exec_params he :)
  have hpending := (exec_interface he).1
  exact ⟨_, step_read_addr (hparams ▸ hwf) hpending, rfl, rfl, _, he, rfl, rfl⟩

/-! ### The words of the chip buffer (R63) -/

theorem chipsWord_getLsbD (chips : ChipBuffer) (w b : Nat) (hb : b < 32) :
    (chipsWord chips w).getLsbD b = chipCell chips (32 * w + b) := by
  simp [chipsWord, chipCell, hb]

theorem chipOfWord_chipsWord (chips : ChipBuffer) (i : Nat) :
    chipOfWord (chipsWord chips (i / 32)) i = chipCell chips i := by
  rw [chipOfWord, chipsWord_getLsbD _ _ _ (Nat.mod_lt _ (by decide)), Nat.div_add_mod]

/-- Settles O27: the line reads register `CHIPS` number `i / 32` at its address. -/
theorem rdChipReadsItsCell : Obligations.RdChipReadsItsCell := by
  intro s rest i hwf hi hp
  have hw : i / 32 < 32 := by omega
  exact ⟨_, step_read_addr (r := .chips ⟨i / 32, hw⟩) hwf hp, chipOfWord_chipsWord s.top.chips i⟩

/-! ### The leaf and the top side by side (R69) -/

section Independence

variable {s t : State} {op : Operation} {rest : List Operation}

theorem step_leafOp (w : Srop) (hp : s.pending = .leafOp w :: rest) :
    step s = exec (decodeSrop w) (s.setPending rest) := by
  simp [step, fetch, hp, fetchOperation, fetchLeafOp, decode]

theorem step_leafReset (o : Option Srop) (hp : s.pending = .leafReset o :: rest) :
    step s = .next ((s.setPending rest).resetLeaf o) := by
  simp [step, fetch, hp, fetchOperation]

/-- A CMD word carries a command of the top. -/
theorem decodeCmd_ok {w : Word} {i : Instr} (h : decodeCmd w = .ok i) : (∃ v, i = .prnInit v) ∨ i = .prnNext := by
  unfold decodeCmd at h
  repeat' split at h
  all_goals cases h
  · exact .inl ⟨_, rfl⟩
  · exact .inr rfl

/-- So does an access to the bus, if it carries an instruction at all. -/
theorem command_of_bus {a : Access} {i : Instr} (h : instrOf (.bus a) = some i) :
    (∃ v, i = .prnInit v) ∨ i = .prnNext := by
  cases a with
  | read addr width => cases h
  | write addr width v =>
    simp only [instrOf, decode] at h
    split at h
    · cases hd : decodeCmd v with
      | ok j =>
        rw [hd] at h
        cases h
        exact decodeCmd_ok hd
      | error e =>
        rw [hd] at h
        cases h
    · cases h

theorem exec_command_leaf {i : Instr} (hi : (∃ v, i = .prnInit v) ∨ i = .prnNext) (h : exec i s = .next t) :
    t.leaf = s.leaf := by
  rcases hi with ⟨v, rfl⟩ | rfl
  · obtain ⟨u, rfl⟩ := exec_prnInit_top h
    rfl
  · obtain ⟨u, rfl⟩ := exec_prnNext_top h
    rfl

theorem step_leafSide (hp : s.pending = op :: rest) (h : step s = .next t)
    (hop : (∃ w, op = .leafOp w) ∨ isLeafReset op = true) : t.top = s.top ∧ t.response = s.response := by
  cases op with
  | leafOp w =>
    obtain ⟨l, rfl⟩ := exec_leafOp (isLeafOp_decodeSrop w) ((step_leafOp w hp).symm.trans h)
    exact ⟨rfl, rfl⟩
  | leafReset o =>
    cases (step_leafReset o hp).symm.trans h
    exact ⟨rfl, rfl⟩
  | bus a => simp [isLeafReset] at hop
  | topReset o => simp [isLeafReset] at hop

theorem step_topSide (hp : s.pending = op :: rest) (h : step s = .next t)
    (hop : (∃ a, op = .bus a) ∨ isTopReset op = true) : t.leaf = s.leaf := by
  have hreset : isLeafReset op = false := by
    cases op with
    | leafReset o => simp [isTopReset] at hop
    | _ => rfl
  rcases step_next_cases hp h with ⟨i, r, hi, he⟩ | ⟨-, -, hl | ⟨hr, -⟩, -⟩
  · rcases hop with ⟨a, rfl⟩ | htop
    · exact (exec_command_leaf (command_of_bus hi) he :)
    · cases op with
      | topReset o => cases hi
      | _ => cases htop
  · exact hl
  · cases hreset.symm.trans hr

end Independence

/-- Settles O37, one side at a time. -/
theorem leafAndTopAreIndependent : Obligations.LeafAndTopAreIndependent :=
  fun _ _ _ _ hp h => ⟨step_leafSide hp h, step_topSide hp h⟩

/-! ### The assembler's lines (R94, R95) -/

/-- Bit `i` of a mask built up by setting the bits in a list that meet a condition. -/
theorem getLsbD_foldl_twoPow {w : Nat} (P : Nat → Prop) [DecidablePred P] (l : List Nat) (m : BitVec w) (i : Nat)
    (hi : i < w) :
    (l.foldl (fun m j => if P j then m ||| BitVec.twoPow w j else m) m).getLsbD i = true
      ↔ m.getLsbD i = true ∨ (i ∈ l ∧ P i) := by
  induction l generalizing m with
  | nil => simp
  | cons j l ih =>
    rw [List.foldl_cons, ih]
    by_cases hj : P j
    · by_cases hij : j = i
      · simp [hij, hij ▸ hj, hi]
      · simp [hj, hij, Ne.symm hij]
    · have hij : i = j → ¬ P i := fun h => h ▸ hj
      rw [if_neg hj, List.mem_cons]
      tauto

theorem indexMaskOf_getLsbD (l : List Nat) (i : Nat) (hi : i < 16) : (indexMaskOf l).getLsbD i = true ↔ i ∈ l := by
  rw [indexMaskOf, getLsbD_foldl_twoPow _ _ _ _ hi]
  simp [hi]

theorem encode_prnInit {sv : Nat} (h : sv ≤ 255) :
    encode (.prnInit sv) = .cmd (0x01000000#32 ||| BitVec.ofNat 32 sv) := by
  have hsv : (BitVec.ofNat 8 sv).setWidth 32 = BitVec.ofNat 32 sv := by
    apply BitVec.eq_of_toNat_eq
    rw [BitVec.toNat_setWidth, BitVec.toNat_ofNat, BitVec.toNat_ofNat]
    omega
  rw [encode, hsv]

/-- The bundle of an assembler's SR.INIT holds the two sets, the feedback set in the low field (R87, R94). -/
theorem srInit_bundle (fb out : List Nat) (i : Nat) (hi : i < 16) :
    ((sropWord 0b01#2 (indexMaskOf out) (indexMaskOf fb)).getLsbD i = true ↔ i ∈ fb)
    ∧ ((sropWord 0b01#2 (indexMaskOf out) (indexMaskOf fb)).getLsbD (16 + i) = true ↔ i ∈ out) := by
  have hout : ¬ 16 + i < 16 := by omega
  rw [sropWord, BitVec.getLsbD_append, BitVec.getLsbD_append, BitVec.getLsbD_append, BitVec.getLsbD_append,
    if_pos hi, if_neg hout, Nat.add_sub_cancel_left, if_pos hi]
  exact ⟨indexMaskOf_getLsbD fb i hi, indexMaskOf_getLsbD out i hi⟩

/-- Settles O6. Every line but PRN.INIT and SR.INIT has its words written out in the model. -/
theorem assemblerWords : Obligations.AssemblerWords := by
  refine ⟨fun sv h => ?_, rfl, fun _ _ => rfl, fun _ => rfl,
    ⟨rfl, rfl, rfl, rfl, rfl, rfl, rfl, rfl, rfl, fun _ => rfl⟩, rfl, fun fb out => ?_, rfl, fun _ => rfl,
    fun _ _ => ⟨rfl, fun _ => rfl⟩, fun _ => rfl, rfl⟩
  · rw [assemble, instrOperation, encode_prnInit h]
    rfl
  · exact ⟨sropWord 0b01#2 (indexMaskOf out) (indexMaskOf fb), rfl, sropOp_sropWord _ _ _, srInit_bundle fb out⟩

/-! ### The chips of a run (R126, R134) -/

section Run

variable {s : State}

/-- The code of a top: what its masks generate. -/
def codeOf (t : Top) : Nat → Bool := codeChip t.g1.fbm t.g1.outm t.g2.fbm t.g2.outm

/-- Up to the end of the period each PRN.NEXT extends the history by a chip of one and the same code. -/
theorem runInstrs_prnNext (n : Nat) (hc : s.top.cfg = true) (hcode : CodeInv s.top)
    (hn : s.top.iter.toNat + n ≤ 1023) :
    ∃ t, runInstrs (List.replicate n .prnNext) s = .next t ∧ t.top.cfg = true ∧ CodeInv t.top
      ∧ t.top.iter.toNat = s.top.iter.toNat + n ∧ codeOf t.top = codeOf s.top := by
  induction n generalizing s with
  | zero => exact ⟨s, rfl, hc, hcode, rfl, rfl⟩
  | succ n ih =>
    have hi : s.top.iter.toNat < 1023 := by omega
    have hiter : s.top.produceChip.iter.toNat = s.top.iter.toNat + 1 := iter_succ_toNat _ hi
    obtain ⟨t, ht, htc, htcode, htn, hcodeOf⟩ :=
      ih (s := s.setTop s.top.produceChip) hc (codeInv_produceChip hcode hc hi) (by rw [State.setTop_top]; omega)
    refine ⟨t, ?_, htc, htcode, ?_, hcodeOf⟩
    · rw [List.replicate_succ, runInstrs, exec_prnNext_chip hc hi]
      exact ht
    · rw [htn, State.setTop_top]
      omega

/-- A successful PRN.INIT and `n` times PRN.NEXT fill the first `n` cells with the code of the resolved masks. -/
theorem runInstrs_prnInit_prnNext {v n : Nat} {r : Resolution} (hr : resolve s.params v = .ok r) (hn : n ≤ 1023) :
    ∃ t, runInstrs (.prnInit v :: List.replicate n .prnNext) s = .next t
      ∧ ∀ i, i < n → chipCell t.top.chips i = codeChip r.g1Fbm g1OutTaps r.g2Fbm r.g2Outm i := by
  have hzero : (s.top.configure v r).iter.toNat = 0 := rfl
  obtain ⟨t, ht, htc, htcode, htn, hcodeOf⟩ :=
    runInstrs_prnNext (s := s.setTop (s.top.configure v r)) n rfl (codeInv_configure v r)
      (by rw [State.setTop_top]; omega)
  rw [State.setTop_top, hzero, Nat.zero_add] at htn
  refine ⟨t, ?_, fun i hi => ?_⟩
  · rw [runInstrs, exec_prnInit_ok hr]
    exact ht
  · exact (htcode.cells htc i (htn ▸ hi)).trans (congrFun hcodeOf i)

end Run

/-! ### The reference table (R59 to R61) -/

section Reference

variable {v : Nat} {p : Params} {delays : List (Nat × Int)}

/-- An output pair of the reference table and its `first_ten_chips` entry agree. -/
theorem reference_row (h1 : 1 ≤ v) (h37 : v ≤ 37) (delays : List (Nat × Int)) :
    ∃ o2 digits, resolveOutputPair (outTapsAt (referenceTaps delays) v) = .ok o2
      ∧ firstTenAt (referenceTaps delays) v = some digits
      ∧ (List.range 10).map (codeChip 0x204#10 g1OutTaps 0x3A6#10 o2) = firstTenChips digits := by
  interval_cases v
  all_goals exact ⟨_, _, rfl, rfl, by decide⟩

theorem resolveDelay_base (h37 : v ≤ 37) : resolveDelay p v = .ok (false, 0) := by
  have hlt : ¬ firstDelaySv p.delayFrom ≤ v := by
    cases p.delayFrom with
    | sv38 => exact Nat.not_le.mpr (Nat.lt_succ_of_le h37)
    | sv39 => exact Nat.not_le.mpr (Nat.lt_succ_of_lt (Nat.lt_succ_of_le h37))
  rw [resolveDelay, if_neg hlt]

theorem svPrnOf_base (h37 : v ≤ 37) : svPrnOf v = v := if_neg (Nat.not_lt.mpr h37)

theorem resolve_reference {o2 : Stages} (htaps : p.taps = referenceTaps delays) (h1 : 1 ≤ v) (h37 : v ≤ 37)
    (ho : resolveOutputPair (outTapsAt (referenceTaps delays) v) = .ok o2) :
    resolve p v
      = .ok { svPrn := v, g1Fbm := 0x204#10, g2Fbm := 0x3A6#10, g2Outm := o2, dlyv := false, delay := 0 } := by
  have hprn := svPrnOf_base h37
  have hg1 : resolveFeedback p.taps.g1 = .ok 0x204#10 := by
    rw [htaps]
    rfl
  have hg2 : resolveFeedback p.taps.g2 = .ok 0x3A6#10 := by
    rw [htaps]
    rfl
  have hout : resolveOutputPair (outTapsAt p.taps (svPrnOf v)) = .ok o2 := by
    rw [htaps, hprn]
    exact ho
  have hparts := resolve_of_parts h1 (h37.trans (by decide)) hg1 hg2 hout (resolveDelay_base h37)
  rwa [hprn] at hparts

end Reference

/-- Settles O45: the run's first ten cells are the first ten chips of the code, and each row of the table gives its own
code. -/
theorem firstTenChipsMatchTheReference : Obligations.FirstTenChipsMatchTheReference := by
  intro s delays v htaps h1 h37
  obtain ⟨o2, digits, ho, hdigits, hchips⟩ := reference_row h1 h37 delays
  obtain ⟨t, ht, hcells⟩ := runInstrs_prnInit_prnNext (n := 10) (resolve_reference htaps h1 h37 ho) (by decide)
  refine ⟨t, digits, ht, htaps ▸ hdigits, ?_⟩
  rw [← hchips]
  exact List.map_congr_left fun i hi => hcells i (List.mem_range.mp hi)

/-! ### The period of the registers (R110) -/

section Period

open Function

/-- A point has minimal period `n` if it returns after `n` steps and not after `n / p` steps, for any prime `p` that
divides `n`. -/
theorem minimalPeriod_eq_of_primes {α : Type} {f : α → α} {x : α} {n : Nat} (hn : IsPeriodicPt f n x)
    (hp : ∀ p, p.Prime → p ∣ n → ¬ IsPeriodicPt f (n / p) x) : minimalPeriod f x = n := by
  obtain ⟨k, hk⟩ := hn.minimalPeriod_dvd
  by_contra hne
  have hk1 : k ≠ 1 := fun h => hne (by rw [hk, h, Nat.mul_one])
  obtain ⟨p, hprime, hpk⟩ := Nat.exists_prime_and_dvd hk1
  refine hp p hprime (hk ▸ hpk.mul_left _) (isPeriodicPt_iff_minimalPeriod_dvd.mpr ⟨k / p, ?_⟩)
  rw [← Nat.mul_div_assoc _ hpk, ← hk]

theorem primeFactor_of_1023 {p : Nat} (hp : p.Prime) (h : p ∣ 1023) : p = 3 ∨ p = 11 ∨ p = 31 := by
  have hfactors : p ∣ 3 * 11 * 31 := h
  rw [hp.dvd_mul, hp.dvd_mul, Nat.prime_dvd_prime_iff_eq hp (by norm_num), Nat.prime_dvd_prime_iff_eq hp (by norm_num),
    Nat.prime_dvd_prime_iff_eq hp (by norm_num)] at hfactors
  tauto

/-- One step of the stages with feedback mask `fbm` (R101). -/
def nextStages (fbm s : Stages) : Stages := lfsrShift s (lfsrFb s fbm)

theorem stagesAfter_eq_iterate (fbm : Stages) (n : Nat) : stagesAfter fbm n = (nextStages fbm)^[n] initialFill := by
  induction n with
  | zero => rfl
  | succ n ih =>
    rw [iterate_succ_apply', ← ih]
    rfl

/-- The stages are at the fill exactly when the fill is a periodic point of the step. -/
theorem stagesAfter_eq_fill_iff {fbm : Stages} {n : Nat} :
    stagesAfter fbm n = initialFill ↔ IsPeriodicPt (nextStages fbm) n initialFill := by
  rw [stagesAfter_eq_iterate]
  rfl

/-- 1023 is 3 * 11 * 31: four values of the stages decide whether the first return to the fill is after 1023 steps. -/
theorem firstReturn_eq_1023 {fbm : Stages} (h1023 : stagesAfter fbm 1023 = initialFill)
    (h341 : stagesAfter fbm 341 ≠ initialFill) (h93 : stagesAfter fbm 93 ≠ initialFill)
    (h33 : stagesAfter fbm 33 ≠ initialFill) :
    stagesAfter fbm 1023 = initialFill ∧ ∀ n, 0 < n → n < 1023 → stagesAfter fbm n ≠ initialFill := by
  have hmin : minimalPeriod (nextStages fbm) initialFill = 1023 := by
    refine minimalPeriod_eq_of_primes (stagesAfter_eq_fill_iff.mp h1023) fun p hp hdvd hper => ?_
    have hreturn := stagesAfter_eq_fill_iff.mpr hper
    rcases primeFactor_of_1023 hp hdvd with rfl | rfl | rfl
    · exact h341 hreturn
    · exact h93 hreturn
    · exact h33 hreturn
  refine ⟨h1023, fun n h0 hn h => ?_⟩
  exact not_isPeriodicPt_of_pos_of_lt_minimalPeriod h0.ne' (hmin ▸ hn) (stagesAfter_eq_fill_iff.mp h)

end Period

/-- Settles O16: each register is at the fill after 1023 steps, and not after 341, 93 or 33. -/
theorem referencePeriodsAre1023 : Obligations.ReferencePeriodsAre1023 :=
  ⟨firstReturn_eq_1023 (by decide +kernel) (by decide +kernel) (by decide +kernel) (by decide +kernel),
    firstReturn_eq_1023 (by decide +kernel) (by decide +kernel) (by decide +kernel) (by decide +kernel)⟩

end Sys2Proof.Proofs

/-! SUPPORT. Proofs of the statements about the encodings (30_encoding.md): the fields of a CMD word, the decoder as the
inverse of the encoder, the opcode table, illegal words, and the tap sets as stage masks. -/

namespace Sys2Proof.Proofs

open Sys2Proof.Machine

/-! ### The fields of a CMD word (R81, R83, R84) -/

section CmdFields

variable {w : Word}

/-- A PRN.INIT word as its three fields: OPC, the reserved bits, SV. -/
theorem initWord_eq_append (b : BitVec 8) : 0x01000000#32 ||| b.setWidth 32 = 0x01#8 ++ (0#16 ++ b) := by
  apply BitVec.eq_of_getLsbD_eq
  intro i hi
  rw [initWord_getLsbD b i hi, BitVec.getLsbD_append, BitVec.getLsbD_append]
  interval_cases i <;> simp

/-- The SV field is all a word with PRN.INIT's OPC and clear reserved bits holds. -/
theorem initWord_of_fields (hopc : cmdOpc w = 0x01#8) (hres : w.extractLsb' 8 16 = 0#16) :
    0x01000000#32 ||| (w.extractLsb' 0 8).setWidth 32 = w :=
  calc 0x01000000#32 ||| (w.extractLsb' 0 8).setWidth 32
      = cmdOpc w ++ (w.extractLsb' 8 16 ++ w.extractLsb' 0 8) := by rw [initWord_eq_append, hopc, hres]
    _ = w.extractLsb' 24 8 ++ w.extractLsb' 0 24 := by
      rw [cmdOpc, BitVec.extractLsb'_append_extractLsb'_eq_extractLsb' (by rfl)]
    _ = w := by rw [BitVec.extractLsb'_append_extractLsb'_eq_extractLsb' (by rfl), BitVec.extractLsb'_eq_self]

/-- PRN.NEXT has one word. -/
theorem nextWord_of_fields (hopc : cmdOpc w = 0x02#8) (hres : w.extractLsb' 0 24 = 0#24) : 0x02000000#32 = w :=
  calc 0x02000000#32 = cmdOpc w ++ w.extractLsb' 0 24 := by rw [hopc, hres]; rfl
    _ = w := by rw [cmdOpc, BitVec.extractLsb'_append_extractLsb'_eq_extractLsb' (by rfl), BitVec.extractLsb'_eq_self]

/-- The mask of PRN.INIT's row keeps the OPC and the reserved bits (R96). -/
theorem initFields_of_mask (h : w &&& 0xFFFFFF00#32 = 0x01000000#32) :
    cmdOpc w = 0x01#8 ∧ w.extractLsb' 8 16 = 0#16 := by
  have hopc := congrArg (BitVec.extractLsb' 24 8) h
  have hres := congrArg (BitVec.extractLsb' 8 16) h
  rw [BitVec.extractLsb'_and] at hopc hres
  exact ⟨BitVec.and_allOnes.symm.trans hopc, BitVec.and_allOnes.symm.trans hres⟩

end CmdFields

/-! ### The decoder is the inverse of the encoder (R86, R88) -/

section Decoder

variable {w : Word} {i : Instr}

theorem decodeCmd_init (hopc : cmdOpc w = 0x01#8) (hres : w.extractLsb' 8 16 = 0#16) :
    decodeCmd w = .ok (.prnInit (w.extractLsb' 0 8).toNat) := by
  rw [decodeCmd, if_pos hopc, if_pos hres]

theorem decodeCmd_initWord (b : BitVec 8) : decodeCmd (0x01000000#32 ||| b.setWidth 32) = .ok (.prnInit b.toNat) := by
  rw [initWord_eq_append, decodeCmd_init BitVec.extractLsb'_append_eq_left]
  · rw [BitVec.extractLsb'_append_eq_of_add_le (by decide), BitVec.extractLsb'_append_eq_right]
  · rw [BitVec.extractLsb'_append_eq_of_add_le (by decide), BitVec.extractLsb'_append_eq_left]

theorem decodeCmd_nextWord : decodeCmd 0x02000000#32 = .ok .prnNext := by decide

/-- What a CMD word decodes to is well formed and has that word. -/
theorem decodeCmd_encoded (h : decodeCmd w = .ok i) : i.wellFormed = true ∧ encode i = .cmd w := by
  unfold decodeCmd at h
  split at h
  case isTrue hopc =>
    split at h
    case isTrue hres =>
      cases h
      have hsv : (w.extractLsb' 0 8).toNat ≤ 255 := Nat.le_of_lt_succ (w.extractLsb' 0 8).isLt
      refine ⟨decide_eq_true hsv, ?_⟩
      rw [encode, BitVec.ofNat_toNat, BitVec.setWidth_eq, initWord_of_fields hopc hres]
    case isFalse => cases h
  case isFalse =>
    split at h
    case isTrue hopc =>
      split at h
      case isTrue hres =>
        cases h
        exact ⟨rfl, congrArg PortWord.cmd (nextWord_of_fields hopc hres)⟩
      case isFalse => cases h
    case isFalse => cases h

/-- A word is rejected exactly when it is illegal in the words of R85. -/
theorem decodeCmd_rejects_iff : (∃ e, decodeCmd w = .error e) ↔
    (cmdOpc w ≠ 0x01#8 ∧ cmdOpc w ≠ 0x02#8) ∨ (cmdOpc w = 0x01#8 ∧ w.extractLsb' 8 16 ≠ 0#16)
      ∨ (cmdOpc w = 0x02#8 ∧ w.extractLsb' 0 24 ≠ 0#24) := by
  unfold decodeCmd
  by_cases h1 : cmdOpc w = 0x01#8
  · by_cases hres : w.extractLsb' 8 16 = 0#16 <;> simp [h1, hres]
  · by_cases h2 : cmdOpc w = 0x02#8
    · by_cases hres : w.extractLsb' 0 24 = 0#24 <;> simp [h2, hres]
    · simp [h1, h2]

theorem decodeSrop_sropWord (op : BitVec 2) (o f : IndexMask) : decodeSrop (sropWord op o f) =
    if op = 0b00#2 then .srIdle o f else if op = 0b01#2 then .srInit o f else if op = 0b10#2 then .srStep o f
    else .srRsvd o f := by
  simp only [decodeSrop, sropOp_sropWord, sropOutIdx_sropWord, sropFbIdx_sropWord]

theorem decodeSrop_wellFormed (w : Srop) : (decodeSrop w).wellFormed = true := by
  unfold decodeSrop
  repeat' split
  all_goals rfl

theorem encode_decodeSrop (w : Srop) : encode (decodeSrop w) = .srop w := by
  have hop : sropOp w = 0b00#2 ∨ sropOp w = 0b01#2 ∨ sropOp w = 0b10#2 ∨ sropOp w = 0b11#2 := by
    generalize sropOp w = op
    revert op
    decide
  have hw := sropWord_fields w
  rcases hop with h | h | h | h
  all_goals
    rw [h] at hw
    simp [decodeSrop, h, encode, hw]

end Decoder

/-- Settles O2, by the instruction: each operand is a field of the word. -/
theorem decodeOfEncodeIsIdentity : Obligations.DecodeOfEncodeIsIdentity := by
  intro i hwf
  cases i with
  | prnInit sv =>
    have hsv : sv ≤ 255 := of_decide_eq_true hwf
    have hfield : (BitVec.ofNat 8 sv).toNat = sv :=
      (BitVec.toNat_ofNat sv 8).trans (Nat.mod_eq_of_lt (Nat.lt_succ_of_le hsv))
    exact (decodeCmd_initWord (BitVec.ofNat 8 sv)).trans (by rw [hfield])
  | prnNext => exact decodeCmd_nextWord
  | srIdle o f => exact congrArg Except.ok (decodeSrop_sropWord 0b00#2 o f)
  | srInit o f => exact congrArg Except.ok (decodeSrop_sropWord 0b01#2 o f)
  | srStep o f => exact congrArg Except.ok (decodeSrop_sropWord 0b10#2 o f)
  | srRsvd o f => exact congrArg Except.ok (decodeSrop_sropWord 0b11#2 o f)

/-- Settles O3, by the format of the word. -/
theorem encodeOfDecodeIsIdentity : Obligations.EncodeOfDecodeIsIdentity := by
  intro pw i h
  cases pw with
  | cmd w => exact decodeCmd_encoded h
  | srop w =>
    cases h
    exact ⟨decodeSrop_wellFormed w, encode_decodeSrop w⟩

/-! ### The opcode table (R96) -/

/-- The words of a well-formed instruction match its own row alone. -/
theorem rows_encode : ∀ i : Instr, Laws.TableRow.Statement i
  | .prnInit sv => Laws.TableRow.prnInit sv
  | .prnNext => Laws.TableRow.prnNext
  | .srIdle o f => Laws.TableRow.srIdle o f
  | .srInit o f => Laws.TableRow.srInit o f
  | .srStep o f => Laws.TableRow.srStep o f
  | .srRsvd o f => Laws.TableRow.srRsvd o f

/-- A word that matches a CMD row decodes, so a rejected one matches none. -/
theorem rows_of_rejected {w : Word} {e : DecodeError} (h : decodeCmd w = .error e) :
    opcodeTable.filter (fun r => r.matchesWord (.cmd w)) = [] := by
  have hinit : w &&& 0xFFFFFF00#32 ≠ 0x01000000#32 := by
    intro hmask
    obtain ⟨hopc, hres⟩ := initFields_of_mask hmask
    cases h.symm.trans (decodeCmd_init hopc hres)
  have hnext : w ≠ 0x02000000#32 := by
    rintro rfl
    cases h.symm.trans decodeCmd_nextWord
  rw [Laws.TableRow.cmd_rows, if_neg hinit, if_neg hnext, List.append_nil]

/-- Settles O4: a word that decodes is the encoding of its instruction, whose row is known. -/
theorem decoderFollowsOpcodeTable : Obligations.DecoderFollowsOpcodeTable := by
  refine fun pw => ⟨fun i h => ?_, fun e h => ?_⟩
  · obtain ⟨hwf, rfl⟩ := encodeOfDecodeIsIdentity pw i h
    exact rows_encode i hwf
  · cases pw with
    | cmd w => exact rows_of_rejected h
    | srop w => cases h

/-! ### Illegal words and the reserved op (R85, R91) -/

/-- Settles O9: the illegal words of R85 are the decoder's rejected ones. -/
theorem illegalCommandReported : Obligations.IllegalCommandReported := by
  intro s w rest hp hillegal
  obtain ⟨e, hd⟩ := decodeCmd_rejects_iff.mpr hillegal
  exact ⟨_, step_illegalCommand hp hd⟩

/-- Settles O13: the op raises ILLEGAL on the leaf. -/
theorem srRsvdReportsIllegal : Obligations.SrRsvdReportsIllegal :=
  fun _ _ _ => rfl

/-- Settles O1. -/
theorem sampleWordsDecode : Obligations.SampleWordsDecode := by
  unfold Obligations.SampleWordsDecode
  decide

/-! ### Tap sets as stage masks (R89, R90) -/

theorem validIndexMask_iff (m : IndexMask) :
    validIndexMask m = true ↔ ∀ i, i < 16 → m.getLsbD i = true → 1 ≤ i ∧ i ≤ 10 := by
  have hhigh : m.extractLsb' 11 5 = 0#5 ↔ ∀ j, j < 5 → m.getLsbD (11 + j) = false := by
    simp +contextual [BitVec.eq_of_getLsbD_eq_iff]
  simp only [validIndexMask, Bool.and_eq_true, decide_eq_true_eq, hhigh]
  constructor
  · rintro ⟨hzero, hhigh⟩ i hi hset
    refine ⟨Nat.pos_of_ne_zero fun h => ?_, Nat.le_of_not_lt fun h => ?_⟩
    · rw [h, hzero] at hset
      cases hset
    · have hclear := hhigh (i - 11) (by omega)
      rw [Nat.add_sub_cancel' h, hset] at hclear
      cases hclear
  · intro h
    refine ⟨Bool.eq_false_iff.mpr fun hset => ?_, fun j hj => Bool.eq_false_iff.mpr fun hset => ?_⟩
    · exact absurd (h 0 (by decide) hset).1 (by decide)
    · have hle := (h (11 + j) (by omega) hset).2
      omega

theorem stage_stageMaskOfIndexMask (m : IndexMask) {k : Nat} (h1 : 1 ≤ k) (h10 : k ≤ 10) :
    stage (stageMaskOfIndexMask m) k = m.getLsbD k := by
  have hk : k - 1 < 10 := by omega
  rw [stage, stageMaskOfIndexMask, BitVec.getLsbD_extractLsb', decide_eq_true hk, Bool.true_and,
    Nat.add_sub_cancel' h1]

theorem stage_stageMaskOfList (l : List Int) {k : Nat} (h1 : 1 ≤ k) (h10 : k ≤ 10) :
    stage (stageMaskOfList l) k = true ↔ (k : Int) ∈ l := by
  have hk : k - 1 < 10 := by omega
  rw [stage, stageMaskOfList, getLsbD_foldl_twoPow _ _ _ _ hk, Nat.sub_add_cancel h1]
  simp [hk]

/-- No stage selected: the sum is 0 (R12). -/
theorem xorsum_zero (s : Stages) : xorsum s 0 = false := by
  have hnone : s &&& 0 = 0 := BitVec.and_zero
  rw [xorsum, hnone]
  decide

/-- Settles O5: a lemma for each kind of set, and the empty set. -/
theorem tapSetsBecomeStageMasks : Obligations.TapSetsBecomeStageMasks :=
  ⟨validIndexMask_iff, fun m _ => stage_stageMaskOfIndexMask m, fun l _ => stage_stageMaskOfList l, tapsInRange_iff,
    by decide, by decide, by decide, by decide, xorsum_zero⟩

end Sys2Proof.Proofs

/-! SUPPORT. Proofs of the statements about the leaf (40_lfsr.md): the LFSR step bit by bit and its linearity, the
meaning of each op on the leaf's fields, and what the ports show after a bundle. -/

namespace Sys2Proof.Proofs

open Sys2Proof.Machine

/-! ### The LFSR step in stage terms (R12, R101) -/

section LfsrStages

variable (s : Stages) (f : Bool)

theorem lfsrShift_getLsbD_zero : (lfsrShift s f).getLsbD 0 = f := by
  rw [lfsrShift, BitVec.getLsbD_or, bitWord_getLsbD_zero 10 (by decide)]
  simp

theorem lfsrShift_getLsbD_succ {i : Nat} (hi : i + 1 < 10) : (lfsrShift s f).getLsbD (i + 1) = s.getLsbD i := by
  have hlt : i < 10 := Nat.lt_of_succ_lt hi
  rw [lfsrShift, BitVec.getLsbD_or, bitWord_getLsbD]
  simp [hi, hlt]

/-- The bit fed back is the new stage 1. -/
theorem stage_lfsrShift_one : stage (lfsrShift s f) 1 = f :=
  lfsrShift_getLsbD_zero s f

/-- Every other new stage holds the old value of the stage before it. -/
theorem stage_lfsrShift_succ {k : Nat} (h1 : 1 ≤ k) (h9 : k ≤ 9) : stage (lfsrShift s f) (k + 1) = stage s k := by
  obtain ⟨i, rfl⟩ := Nat.exists_eq_add_of_le' h1
  exact lfsrShift_getLsbD_succ s f (by omega)

theorem xorsum_eq_stages (m : Stages) : xorsum s m =
    ((stage s 1 && stage m 1) ^^ (stage s 2 && stage m 2) ^^ (stage s 3 && stage m 3) ^^ (stage s 4 && stage m 4)
      ^^ (stage s 5 && stage m 5) ^^ (stage s 6 && stage m 6) ^^ (stage s 7 && stage m 7) ^^ (stage s 8 && stage m 8)
      ^^ (stage s 9 && stage m 9) ^^ (stage s 10 && stage m 10)) := by
  have hrange : List.range 10 = [0, 1, 2, 3, 4, 5, 6, 7, 8, 9] := rfl
  simp only [xorsum, parity, hrange, List.foldl_cons, List.foldl_nil, BitVec.getLsbD_and, Bool.false_xor, stage,
    Nat.reduceSub]

end LfsrStages

/-- Settles O14, by a lemma for the fed-back stage, the shifted stages and the sum. -/
theorem lfsrStepInStageTerms : Obligations.LfsrStepInStageTerms :=
  ⟨fun _ _ _ => rfl, stage_lfsrShift_one, fun s f _ => stage_lfsrShift_succ s f, xorsum_eq_stages⟩

/-! ### Linearity over GF(2) (R111) -/

/-- A sum modulo 2 is additive in the bits it sums. -/
theorem parity_xor {n : Nat} (a b : BitVec n) : parity (a ^^^ b) = (parity a ^^ parity b) := by
  refine List.foldl_hom₂ (List.range n) Bool.xor _ _ _ false false fun x y i => ?_
  simp only [BitVec.getLsbD_xor, Bool.xor_assoc, Bool.xor_left_comm]

theorem xorsum_xor (s1 s2 m : Stages) : xorsum (s1 ^^^ s2) m = (xorsum s1 m ^^ xorsum s2 m) := by
  have hselect : (s1 ^^^ s2) &&& m = (s1 &&& m) ^^^ (s2 &&& m) := by
    ext i
    simp [Bool.and_xor_distrib_right]
  rw [xorsum, hselect, parity_xor, xorsum, xorsum]

/-- The shift is additive in the stages and the bit fed back together. -/
theorem lfsrShift_xor (s1 s2 : Stages) (f1 f2 : Bool) :
    lfsrShift (s1 ^^^ s2) (f1 ^^ f2) = lfsrShift s1 f1 ^^^ lfsrShift s2 f2 := by
  apply BitVec.eq_of_getLsbD_eq
  intro i hi
  rw [BitVec.getLsbD_xor]
  cases i with
  | zero => simp only [lfsrShift_getLsbD_zero]
  | succ i => simp only [lfsrShift_getLsbD_succ _ _ hi, BitVec.getLsbD_xor]

/-- Settles O15: the output bit is a sum, and the new stages are the shift fed with a sum. -/
theorem lfsrStepIsLinear : Obligations.LfsrStepIsLinear := by
  intro s1 s2 fbm outm
  refine ⟨xorsum_xor s1 s2 outm, ?_⟩
  calc lfsrShift (s1 ^^^ s2) (xorsum (s1 ^^^ s2) fbm)
      = lfsrShift (s1 ^^^ s2) (xorsum s1 fbm ^^ xorsum s2 fbm) := by rw [xorsum_xor]
    _ = lfsrShift s1 (xorsum s1 fbm) ^^^ lfsrShift s2 (xorsum s2 fbm) := lfsrShift_xor s1 s2 _ _

/-! ### The leaf's ops (R102 to R106) -/

/-- Index 0 and the indices above 10 are the invalid ones (R89). -/
theorem validIndexMask_iff_fields (m : IndexMask) :
    validIndexMask m = true ↔ m.getLsbD 0 = false ∧ m.extractLsb' 11 5 = 0#5 := by
  simp only [validIndexMask, Bool.and_eq_true, decide_eq_true_eq]

/-- The check of SR.INIT's two operands, in their bits. -/
theorem validIndexMasks_iff_fields (f o : IndexMask) : (validIndexMask f = true ∧ validIndexMask o = true) ↔
    (f.getLsbD 0 = false ∧ f.extractLsb' 11 5 = 0#5 ∧ o.getLsbD 0 = false ∧ o.extractLsb' 11 5 = 0#5) := by
  rw [validIndexMask_iff_fields, validIndexMask_iff_fields, and_assoc]

/-- Settles O10: the op answers the state it was given. -/
theorem srIdleChangesNothing : Obligations.SrIdleChangesNothing :=
  fun _ _ _ => rfl

/-- Settles O11: the two ways SR.INIT can go. -/
theorem srInitConfiguresOrFails : Obligations.SrInitConfiguresOrFails :=
  fun o f _ => ⟨fun hv => exec_srInit_valid ((validIndexMasks_iff_fields f o).mpr hv),
    fun hv => exec_srInit_invalid ((validIndexMasks_iff_fields f o).not.mpr hv)⟩

/-- Settles O12: the two ways SR.STEP can go. -/
theorem srStepAdvancesOrReports : Obligations.SrStepAdvancesOrReports :=
  fun _ _ _ => ⟨exec_srStep_configured, exec_srStep_unconfigured⟩

/-! ### A step runs what it decodes (R100, R133, R166) -/

/-- Settles O7: a step equation for each of a CMD write, a bundle, and nothing pending. -/
theorem stepRunsDecodedInstruction : Obligations.StepRunsDecodedInstruction := by
  refine ⟨fun _ _ _ _ => step_command, fun s w i rest hp hd => ?_, fun _ => step_nil⟩
  cases hd
  exact step_leafOp w hp

/-! ### The ports after a bundle (R100, R151) -/

section Ports

variable {w : Srop}

theorem decodeSrop_of_op {op : BitVec 2} (hop : sropOp w = op) : decodeSrop w =
    if op = 0b00#2 then .srIdle (sropOutIdx w) (sropFbIdx w)
    else if op = 0b01#2 then .srInit (sropOutIdx w) (sropFbIdx w)
    else if op = 0b10#2 then .srStep (sropOutIdx w) (sropFbIdx w)
    else .srRsvd (sropOutIdx w) (sropFbIdx w) := by
  rw [decodeSrop, hop]

/-- An index mask inside a bundle is valid when the bundle's own bits say so. -/
theorem validIndexMask_extractLsb' (k : Nat) : validIndexMask (w.extractLsb' k 16) = true ↔
    w.getLsbD k = false ∧ w.extractLsb' (k + 11) 5 = 0#5 := by
  have hzero : (w.extractLsb' k 16).getLsbD 0 = w.getLsbD k := by simp
  have hhigh : (w.extractLsb' k 16).extractLsb' 11 5 = w.extractLsb' (k + 11) 5 := by
    apply BitVec.eq_of_getLsbD_eq
    intro i hi
    have h16 : 11 + i < 16 := by omega
    simp [h16, Nat.add_assoc]
  rw [validIndexMask_iff_fields, hzero, hhigh]

theorem bundle_valid_iff : (validIndexMask (sropFbIdx w) = true ∧ validIndexMask (sropOutIdx w) = true) ↔
    (w.getLsbD 0 = false ∧ w.extractLsb' 11 5 = 0#5 ∧ w.getLsbD 16 = false ∧ w.extractLsb' 27 5 = 0#5) := by
  rw [sropFbIdx, sropOutIdx, validIndexMask_extractLsb', validIndexMask_extractLsb', and_assoc]

end Ports

/-- Settles O47: the bundle's op decides the instruction, and the instruction's cases give the leaf it leaves. -/
theorem leafPortsReportTheLastOp : Obligations.LeafPortsReportTheLastOp := by
  intro s w rest hp
  obtain ⟨l, u, he, -, -⟩ := exec_moves (decodeSrop w) (s.setPending rest)
  generalize ((s.setPending rest).setLeaf l).setTop u = t at he
  refine ⟨t, (step_leafOp w hp).trans he, fun hop => ?idle, fun hop => ?init, fun hop => ?step, fun hop => ?rsvd⟩
  all_goals rw [decodeSrop_of_op hop] at he
  case idle =>
    rw [exec_srIdle_next he]
    rfl
  case init =>
    rcases exec_srInit_cases he with ⟨hv, rfl⟩ | ⟨hv, rfl⟩
    · exact ⟨rfl, rfl, rfl, fun _ => ⟨rfl, rfl⟩, fun hn => absurd (bundle_valid_iff.mp hv) hn⟩
    · exact ⟨rfl, rfl, rfl, fun hy => absurd (bundle_valid_iff.mpr hy) hv, fun _ => ⟨rfl, rfl⟩⟩
  case step =>
    rcases exec_srStep_cases he with ⟨hc, rfl⟩ | ⟨hc, rfl⟩
    · have hport : s.leaf.ports.cfg_o = BitVec.ofBool true := congrArg BitVec.ofBool hc
      exact ⟨rfl, fun _ => ⟨rfl, rfl, rfl, rfl⟩, fun h0 => absurd (hport.symm.trans h0) (by decide)⟩
    · have hport : s.leaf.ports.cfg_o = BitVec.ofBool false := congrArg BitVec.ofBool hc
      exact ⟨rfl, fun h1 => absurd (hport.symm.trans h1) (by decide), fun _ => ⟨rfl, rfl, rfl, rfl⟩⟩
  case rsvd =>
    rw [exec_srRsvd_next he]
    exact ⟨rfl, rfl, rfl, rfl, rfl⟩

end Sys2Proof.Proofs

/-! SUPPORT. Proofs of the statements about the top's commands (41_prn.md): the checks of `resolve` over any table, what
PRN.INIT and PRN.NEXT write, the words of the register window, and runs of a PRN.INIT and any number of PRN.NEXT. -/

namespace Sys2Proof.Proofs

open Sys2Proof.Machine Sys2Proof.Safety

/-! ### The checks of `resolve` (R122) -/

section Checks

variable {p : Params} {v d : Nat} {dv : Bool} {l l1 l2 : List Int}

/-- The base index of R121, with its constants written out. -/
theorem svPrnOf_eq (v : Nat) : svPrnOf v = if 37 < v then v - 37 else v := rfl

theorem tapsInRange_eq_false_iff : tapsInRange l = false ↔ ∃ x ∈ l, x < 1 ∨ 10 < x := by
  rw [← Bool.not_eq_true, tapsInRange_iff]
  simp only [not_forall, not_and_or, not_le, exists_prop]

theorem resolveFeedback_of_wellFormed (hl : ∀ x ∈ l, 1 ≤ x ∧ x ≤ 10) :
    resolveFeedback (some l) = .ok (stageMaskOfList l) :=
  if_pos ((tapsInRange_iff l).mpr hl)

theorem resolveFeedback_of_malformed {e : Option (List Int)} (he : ∀ l, e = some l → ∃ x ∈ l, x < 1 ∨ 10 < x) :
    resolveFeedback e = .error .config := by
  cases e with
  | none => rfl
  | some l => simp [resolveFeedback, tapsInRange_eq_false_iff.mpr (he l rfl)]

theorem resolveOutputPair_of_wellFormed (hlen : l.length = 2) (hl : ∀ x ∈ l, 1 ≤ x ∧ x ≤ 10) :
    resolveOutputPair (some l) = .ok (stageMaskOfList l) :=
  if_pos ⟨hlen, (tapsInRange_iff l).mpr hl⟩

theorem resolveOutputPair_of_malformed {e : Option (List Int)}
    (he : ∀ l, e = some l → l.length ≠ 2 ∨ ∃ x ∈ l, x < 1 ∨ 10 < x) : resolveOutputPair e = .error .config := by
  cases e with
  | none => rfl
  | some l =>
    rcases he l rfl with hlen | hl
    · simp [resolveOutputPair, hlen]
    · simp [resolveOutputPair, tapsInRange_eq_false_iff.mpr hl]

theorem resolveDelay_below (hv : v < firstDelaySv p.delayFrom) : resolveDelay p v = .ok (false, 0) :=
  if_neg (Nat.not_le.mpr hv)

theorem resolveDelay_of_wellFormed (hv : firstDelaySv p.delayFrom ≤ v) (hd : delayAt p.taps v = some (d : Int))
    (hlt : d < 2 ^ p.delayW.val) : resolveDelay p v = .ok (true, d) := by
  have hfits : 0 ≤ (d : Int) ∧ (d : Int) < 2 ^ p.delayW.val := ⟨Int.natCast_nonneg d, by exact_mod_cast hlt⟩
  simp only [resolveDelay, if_pos hv, hd, if_pos hfits, Int.toNat_natCast]

theorem resolveDelay_of_malformed (hv : firstDelaySv p.delayFrom ≤ v)
    (hd : ∀ d, delayAt p.taps v = some d → d < 0 ∨ 2 ^ p.delayW.val ≤ d) : resolveDelay p v = .error .config := by
  rw [resolveDelay, if_pos hv]
  cases he : delayAt p.taps v with
  | none => rfl
  | some d =>
    have hfits : ¬ (0 ≤ d ∧ d < 2 ^ p.delayW.val) := by
      rw [not_and_or, not_le, not_lt]
      exact hd d he
    exact if_neg hfits

/-- The first check: the SV ID alone decides it (R125). -/
theorem resolve_outOfRange (hv : v < 1 ∨ 63 < v) : resolve p v = .error .range := if_pos hv

/-- An SV ID in range fails for its table entries alone. -/
theorem resolve_error_of_inRange {e : TopErr} (h1 : 1 ≤ v) (h63 : v ≤ 63) (h : resolve p v = .error e) :
    e = .config := by
  have hv : ¬ (v < Config.svMin ∨ v > Config.svMax) := by
    rw [Config.svMin, Config.svMax]
    omega
  rw [resolve, if_neg hv] at h
  split at h
  next e1 hg1 =>
    cases h
    exact resolveFeedback_error hg1
  next m1 _ =>
    split at h
    next e2 hg2 =>
      cases h
      exact resolveFeedback_error hg2
    next m2 _ =>
      split at h
      next e3 ho =>
        cases h
        exact resolveOutputPair_error ho
      next o2 _ =>
        split at h
        next e4 hd =>
          cases h
          exact resolveDelay_error hd
        next => cases h

/-- One malformed or missing entry is enough, whichever check finds it. -/
theorem resolve_of_malformed (h1 : 1 ≤ v) (h63 : v ≤ 63)
    (hbad : resolveFeedback p.taps.g1 = .error .config ∨ resolveFeedback p.taps.g2 = .error .config
      ∨ resolveOutputPair (outTapsAt p.taps (svPrnOf v)) = .error .config ∨ resolveDelay p v = .error .config) :
    resolve p v = .error .config := by
  cases hr : resolve p v with
  | error e => rw [resolve_error_of_inRange h1 h63 hr]
  | ok r =>
    obtain ⟨-, -, hg1, hg2, ho, hd⟩ := resolve_ok hr
    rcases hbad with hbad | hbad | hbad | hbad
    · cases hbad.symm.trans hg1
    · cases hbad.symm.trans hg2
    · cases hbad.symm.trans ho
    · cases hbad.symm.trans hd

/-- Well-formed entries resolve to their stage masks, with the delay that its own check gives. -/
theorem resolve_of_wellFormed (h1 : 1 ≤ v) (h63 : v ≤ 63)
    (hg1 : p.taps.g1 = some l1) (hl1 : ∀ x ∈ l1, 1 ≤ x ∧ x ≤ 10)
    (hg2 : p.taps.g2 = some l2) (hl2 : ∀ x ∈ l2, 1 ≤ x ∧ x ≤ 10)
    (ho : outTapsAt p.taps (svPrnOf v) = some l) (hlen : l.length = 2) (hl : ∀ x ∈ l, 1 ≤ x ∧ x ≤ 10)
    (hd : resolveDelay p v = .ok (dv, d)) :
    resolve p v = .ok
      { svPrn := svPrnOf v, g1Fbm := stageMaskOfList l1, g2Fbm := stageMaskOfList l2, g2Outm := stageMaskOfList l,
        dlyv := dv, delay := d } :=
  resolve_of_parts h1 h63 (hg1 ▸ resolveFeedback_of_wellFormed hl1) (hg2 ▸ resolveFeedback_of_wellFormed hl2)
    (ho ▸ resolveOutputPair_of_wellFormed hlen hl) hd

end Checks

/-- Settles O17, a lemma for each outcome of each check. -/
theorem resolveFollowsItsChecks : Obligations.ResolveFollowsItsChecks := by
  intro p v
  refine ⟨resolve_outOfRange, fun h1 h63 hbad => resolve_of_malformed h1 h63 ?_,
    fun l1 l2 l h1 h63 hg1 hl1 hg2 hl2 ho hlen hl => ⟨fun hv => ?_, fun d hv hd hlt => ?_⟩⟩
  · rcases hbad with hbad | hbad | hbad | ⟨hv, hbad⟩
    · exact .inl (resolveFeedback_of_malformed hbad)
    · exact .inr (.inl (resolveFeedback_of_malformed hbad))
    · exact .inr (.inr (.inl (resolveOutputPair_of_malformed hbad)))
    · exact .inr (.inr (.inr (resolveDelay_of_malformed hv hbad)))
  · exact resolve_of_wellFormed h1 h63 hg1 hl1 hg2 hl2 ho hlen hl (resolveDelay_below hv)
  · exact resolve_of_wellFormed h1 h63 hg1 hl1 hg2 hl2 ho hlen hl (resolveDelay_of_wellFormed hv hd hlt)

/-! ### PRN.INIT (R123 to R125) -/

/-- Settles O18: the two ways PRN.INIT can go. -/
theorem prnInitFollowsResolve : Obligations.PrnInitFollowsResolve :=
  fun _ _ => ⟨fun _ hr => ⟨_, exec_prnInit_ok hr, rfl⟩, fun _ he => ⟨_, exec_prnInit_error he, rfl⟩⟩

/-- Settles O20: the first check fails before the table is read. -/
theorem svOutOfRangeFails : Obligations.SvOutOfRangeFails :=
  fun _ _ hv => ⟨_, exec_prnInit_error (resolve_outOfRange hv), rfl⟩

/-- A configured top holds the numbers that were resolved: `SV`, `SVPRN` and `DELAY` fit their fields. -/
theorem configure_stores {p : Params} {v : Nat} {r : Resolution} (t : Top) (hr : resolve p v = .ok r) :
    (t.configure v r).sv.toNat = v ∧ (t.configure v r).svPrn.toNat = r.svPrn
      ∧ (t.configure v r).delay.toNat = r.delay := by
  have h63 : v ≤ 63 := (resolve_ok hr).1.2
  have hsv : (t.configure v r).sv.toNat = v := Nat.mod_eq_of_lt (by omega)
  obtain ⟨r', hr', hprn, -, -, -, -, -, hdelay, -, -⟩ := (topInv_configure (t := t) hr).configured rfl
  rw [hsv, hr] at hr'
  cases hr'
  exact ⟨hsv, hprn, hdelay⟩

/-- Settles O19: the entries resolve, and what they resolve to is what the configured top holds. -/
theorem prnInitConfiguresFromTable : Obligations.PrnInitConfiguresFromTable := by
  intro s v d dv l1 l2 l h1 h63 hg1 hl1 hg2 hl2 ho hlen hl hdelay
  have hd : resolveDelay s.params v = .ok (dv, d) := by
    rcases hdelay with ⟨hv, rfl, rfl⟩ | ⟨hv, rfl, hd, hlt⟩
    · exact resolveDelay_below hv
    · exact resolveDelay_of_wellFormed hv hd hlt
  have hr := resolve_of_wellFormed h1 h63 hg1 hl1 hg2 hl2 ho hlen hl hd
  obtain ⟨hsv, hprn, hdelayStored⟩ := configure_stores s.top hr
  exact ⟨_, exec_prnInit_ok hr, rfl, rfl, hsv, hprn, rfl, hdelayStored, rfl, rfl, rfl,
    fun k hk1 hk10 => ⟨stage_stageMaskOfList l1 hk1 hk10, stage_stageMaskOfList l2 hk1 hk10,
      stage_stageMaskOfList l hk1 hk10⟩, rfl, chipCell_zero⟩

/-! ### PRN.NEXT (R126 to R129) -/

/-- Settles O21: the three ways PRN.NEXT can go. -/
theorem prnNextProducesOneChip : Obligations.PrnNextProducesOneChip :=
  fun _ => ⟨exec_prnNext_unconfigured, exec_prnNext_exhausted, fun hc hi =>
    ⟨_, exec_prnNext_chip hc hi, rfl, iter_succ_toNat _ hi, fun j => chipCell_setChipCell _ _ j _ hi⟩⟩

/-- Settles O22: an exhausted top produces no chip, so only the result flags are left to write. -/
theorem exhaustedUntilInitOrReset : Obligations.ExhaustedUntilInitOrReset := by
  intro s t op rest hp hc hi hreset hinit h
  have hnone : ¬ producesChip s op := fun ⟨_, _, hlt⟩ => absurd hlt hi.not_lt
  obtain ⟨hcfg, -, -, -, -, -, -, -, -, hkeep⟩ := step_topFrame hp h hreset hinit
  obtain ⟨hg1, hg2, hiter, hchips⟩ := hkeep hnone
  refine ⟨hcfg.trans hc, hiter ▸ hi, hchips, hg1, hg2, fun hnext => ?_⟩
  rcases step_next_cases hp h with ⟨i, r, hop, he⟩ | ⟨hop, -⟩
  · obtain rfl : i = .prnNext := Option.some.inj (hop.symm.trans hnext)
    cases (exec_prnNext_exhausted (s := (s.setPending rest).answer r) hc hi.ge).symm.trans he
    rfl
  · cases hop.symm.trans hnext

/-! ### The words of the register window (R37, R132) -/

section Layouts

variable {p : Params} {t : Top}

/-- No two registers share an address. -/
theorem addr_inj {r r' : HostReg} (h : r.addr = r'.addr) : r = r' := by
  have hr := hostRegAt_addr r
  rw [h, hostRegAt_addr r'] at hr
  exact (Option.some.inj hr).symm

/-- A field above the width of a word's content is reserved. -/
theorem extractLsb'_of_width_le {w : Nat} (x : BitVec w) {start len : Nat} (h : w ≤ start) :
    x.extractLsb' start len = 0#len := by
  ext i hi
  simp [BitVec.getLsbD_of_ge x (start + i) (by omega)]

theorem err_code_eq (e : TopErr) :
    (e = .none → e.code = 0#4) ∧ (e = .range → e.code = 1#4) ∧ (e = .config → e.code = 2#4)
    ∧ (e = .notConfigured → e.code = 3#4) ∧ (e = .illegal → e.code = 4#4) ∧ (e = .access → e.code = 5#4) := by
  cases e <;> decide

/-- The one-bit fields of STATUS. -/
theorem statusWord_flags (t : Top) : (statusWord t).getLsbD 0 = t.cfg ∧ (statusWord t).getLsbD 1 = t.exhausted
    ∧ (statusWord t).getLsbD 2 = t.valid ∧ (statusWord t).getLsbD 3 = t.chip ∧ (statusWord t).getLsbD 8 = t.errAny := by
  simp only [statusWord, BitVec.getLsbD_setWidth, BitVec.getLsbD_append, BitVec.getLsbD_ofBool, Nat.reduceLT,
    Nat.reduceSub, decide_true, Bool.true_and, if_true, if_false, and_self]

theorem statusWord_err (t : Top) : (statusWord t).extractLsb' 4 4 = t.err.code := by
  simp (disch := omega) only [statusWord, BitVec.extractLsb'_setWidth_of_le, BitVec.extractLsb'_append_eq_of_add_le,
    BitVec.extractLsb'_append_eq_of_le, BitVec.extractLsb'_eq_self, Nat.reduceSub]

theorem statusWord_reserved (t : Top) : (statusWord t).extractLsb' 9 23 = 0#23 := by
  rw [statusWord, BitVec.extractLsb'_setWidth_of_le (by decide), extractLsb'_of_width_le _ (by decide)]

theorem readHostReg_svid_fields : (readHostReg p t .svid).extractLsb' 0 6 = t.sv
    ∧ (readHostReg p t .svid).extractLsb' 6 2 = 0#2 ∧ (readHostReg p t .svid).extractLsb' 8 6 = t.svPrn
    ∧ (readHostReg p t .svid).extractLsb' 14 2 = 0#2 ∧ (readHostReg p t .svid).getLsbD 16 = t.dlyv
    ∧ (readHostReg p t .svid).extractLsb' 17 15 = 0#15 := by
  simp (disch := omega) only [readHostReg, BitVec.extractLsb'_setWidth_of_le, BitVec.extractLsb'_append_eq_of_add_le,
    BitVec.extractLsb'_append_eq_of_le, BitVec.extractLsb'_eq_self, extractLsb'_of_width_le, BitVec.getLsbD_setWidth,
    BitVec.getLsbD_append, BitVec.getLsbD_ofBool, Nat.reduceSub, Nat.reduceLT, decide_true,
    Bool.true_and, if_false, and_self]

theorem tapsWord_fields (l : Leaf) : (tapsWord l).extractLsb' 0 10 = l.fbm ∧ (tapsWord l).extractLsb' 10 6 = 0#6
    ∧ (tapsWord l).extractLsb' 16 10 = l.outm ∧ (tapsWord l).extractLsb' 26 6 = 0#6 := by
  simp (disch := omega) only [tapsWord, BitVec.extractLsb'_setWidth_of_le, BitVec.extractLsb'_append_eq_of_add_le,
    BitVec.extractLsb'_append_eq_of_le, BitVec.extractLsb'_eq_self, extractLsb'_of_width_le, Nat.reduceSub, and_self]

/-- The DELAY word has `DELAY_W` bits of the field, the others 0. -/
theorem delayWord_getLsbD (b : Nat) :
    (delayWord p t).getLsbD b = (decide (b < p.delayW.val) && t.delay.getLsbD b) := by
  have hw : p.delayW.val ≤ 32 := Nat.le_of_lt_succ p.delayW.isLt
  rw [delayWord, BitVec.getLsbD_ofNat, Nat.testBit_mod_two_pow, BitVec.testBit_toNat]
  by_cases hb : b < p.delayW.val
  · simp [hb, hb.trans_le hw]
  · simp [hb]

/-- The last word of the chip buffer has one reserved bit, where there is no cell (R63). -/
theorem chipCell_of_no_cell (chips : ChipBuffer) {i : Nat} (hi : ¬ i ≤ 1022) : chipCell chips i = false :=
  BitVec.getLsbD_of_ge chips i (by omega)

theorem readHostReg_chips_getLsbD (w : Fin 32) {b : Nat} (hb : b < 32) : (readHostReg p t (.chips w)).getLsbD b =
    if 32 * w.val + b ≤ 1022 then chipCell t.chips (32 * w.val + b) else false := by
  rw [readHostReg, chipsWord_getLsbD _ _ _ hb]
  split
  next => rfl
  next hi => exact chipCell_of_no_cell t.chips hi

end Layouts

/-- Settles O26: a named address is a register's, and each register's word has its own layout lemma. -/
theorem registerLayouts : Obligations.RegisterLayouts := by
  intro s rest addr hwf hn hp
  obtain ⟨r, rfl⟩ := exists_addr_of_named hn
  refine ⟨readHostReg s.params s.top r, step_read_addr hwf hp, fun h => ?cmd, fun h => ?status, fun h => ?svid,
    fun h => ?delay, fun h => ?iter, fun h => ?g1State, fun h => ?g2State, fun h => ?g1Taps, fun h => ?g2Taps,
    fun w hw h b hb => ?chips⟩
  case cmd =>
    obtain rfl := addr_inj (r' := .cmd) h
    rfl
  case status =>
    obtain rfl := addr_inj (r' := .status) h
    obtain ⟨hcfg, hexh, hvalid, hchip, hany⟩ := statusWord_flags s.top
    obtain ⟨hnone, hrange, hconfig, hnotConfigured, hillegal, haccess⟩ := statusWord_err s.top ▸ err_code_eq s.top.err
    exact ⟨hcfg, hexh, hvalid, hchip, hnone, hrange, hconfig, hnotConfigured, hillegal, haccess, hany,
      statusWord_reserved s.top⟩
  case svid =>
    obtain rfl := addr_inj (r' := .svid) h
    exact readHostReg_svid_fields
  case delay =>
    obtain rfl := addr_inj (r' := .delay) h
    refine ⟨fun b hb => ?_, fun b hb => ?_⟩
    · exact (delayWord_getLsbD b).trans (by simp [hb])
    · exact (delayWord_getLsbD b).trans (by simp [hb])
  case iter =>
    obtain rfl := addr_inj (r' := .iter) h
    exact BitVec.toNat_setWidth_of_le (by decide)
  case g1State =>
    obtain rfl := addr_inj (r' := .g1State) h
    exact BitVec.toNat_setWidth_of_le (by decide)
  case g2State =>
    obtain rfl := addr_inj (r' := .g2State) h
    exact BitVec.toNat_setWidth_of_le (by decide)
  case g1Taps =>
    obtain rfl := addr_inj (r' := .g1Taps) h
    exact tapsWord_fields s.top.g1
  case g2Taps =>
    obtain rfl := addr_inj (r' := .g2Taps) h
    exact tapsWord_fields s.top.g2
  case chips =>
    obtain rfl := addr_inj (r' := .chips ⟨w, hw⟩) h
    exact readHostReg_chips_getLsbD ⟨w, hw⟩ hb

/-! ### Runs of a PRN.INIT and any number of PRN.NEXT (R126, R128, R134) -/

section Runs

variable {p : Params} {s : State} {t : Top} {r : Resolution} {v : Nat}

/-- What PRN.NEXT makes of a configured top: a chip, until the period is complete. -/
def nextTop (t : Top) : Top := if 1023 ≤ t.iter.toNat then t.succeed false false else t.produceChip

theorem nextTop_exhausted (hi : 1023 ≤ t.iter.toNat) : nextTop t = t.succeed false false := if_pos hi

theorem nextTop_chip (hi : t.iter.toNat < 1023) : nextTop t = t.produceChip := if_neg (Nat.not_le.mpr hi)

theorem exec_prnNext_configured (hc : s.top.cfg = true) : exec .prnNext s = .next (s.setTop (nextTop s.top)) := by
  rcases Nat.lt_or_ge s.top.iter.toNat 1023 with hi | hi
  · rw [exec_prnNext_chip hc hi, nextTop_chip hi]
  · rw [exec_prnNext_exhausted hc hi, nextTop_exhausted hi]

@[simp] theorem nextTop_cfg (t : Top) : (nextTop t).cfg = t.cfg := by
  unfold nextTop
  split <;> rfl

/-- `n` times PRN.NEXT on a configured top. -/
theorem runInstrs_replicate_prnNext (n : Nat) (hc : s.top.cfg = true) :
    runInstrs (List.replicate n .prnNext) s = .next (s.setTop (nextTop^[n] s.top)) := by
  induction n generalizing s with
  | zero => rfl
  | succ n ih =>
    rw [List.replicate_succ, runInstrs, exec_prnNext_configured hc]
    exact ih ((nextTop_cfg s.top).trans hc)

/-- A generation run: a successful PRN.INIT and `n` times PRN.NEXT. -/
theorem runInstrs_generation (n : Nat) (hr : resolve s.params v = .ok r) :
    runInstrs (.prnInit v :: List.replicate n .prnNext) s
      = .next (s.setTop (nextTop^[n] (s.top.configure v r))) := by
  rw [runInstrs, exec_prnInit_ok hr]
  exact runInstrs_replicate_prnNext (s := s.setTop (s.top.configure v r)) n rfl

/-! #### What a run has made after `n` chips were asked for -/

/-- A PRN.NEXT on a configured top is a move of the top, so it keeps the top's invariants. -/
theorem nextTop_move (p : Params) (hc : t.cfg = true) : TopMove p t (nextTop t) := by
  rcases Nat.lt_or_ge t.iter.toNat 1023 with hi | hi
  · exact nextTop_chip hi ▸ .chip t hc hi
  · exact nextTop_exhausted hi ▸ .exhausted t hc hi

@[simp] theorem nextTop_err (t : Top) : (nextTop t).err = .none := by
  unfold nextTop
  split <;> rfl

/-- The count stops at the period. -/
theorem nextTop_iter (hi : t.iter.toNat ≤ 1023) : (nextTop t).iter.toNat = min (t.iter.toNat + 1) 1023 := by
  rcases Nat.lt_or_ge t.iter.toNat 1023 with hlt | hge
  · rw [nextTop_chip hlt, Nat.min_eq_left hlt]
    exact iter_succ_toNat _ hlt
  · rw [nextTop_exhausted hge, Nat.min_eq_right (Nat.le_succ_of_le hge)]
    exact Nat.le_antisymm hi hge

/-- The masks of the two registers: what a code is made from. -/
def masksOf (t : Top) : (Stages × Stages) × (Stages × Stages) := ((t.g1.fbm, t.g1.outm), (t.g2.fbm, t.g2.outm))

theorem masksOf_eq_iff {fbm1 outm1 fbm2 outm2 : Stages} : masksOf t = ((fbm1, outm1), (fbm2, outm2)) ↔
    (t.g1.fbm = fbm1 ∧ t.g1.outm = outm1) ∧ t.g2.fbm = fbm2 ∧ t.g2.outm = outm2 := by
  simp only [masksOf, Prod.mk.injEq]

@[simp] theorem masksOf_nextTop (t : Top) : masksOf (nextTop t) = masksOf t := by
  unfold nextTop
  split <;> rfl

/-- The top of a run: configured with the resolved masks, without an error, `min n 1023` chips counted, and in keeping
with the invariants of every step. -/
structure GeneratedTo (p : Params) (r : Resolution) (n : Nat) (t : Top) : Prop where
  cfg : t.cfg = true
  err : t.err = .none
  iter : t.iter.toNat = min n 1023
  masks : masksOf t = ((r.g1Fbm, g1OutTaps), (r.g2Fbm, r.g2Outm))
  topInv : TopInv p t
  codeInv : CodeInv t

theorem generatedTo_configure (hr : resolve p v = .ok r) : GeneratedTo p r 0 (t.configure v r) where
  cfg := rfl
  err := rfl
  iter := rfl
  masks := rfl
  topInv := topInv_configure hr
  codeInv := codeInv_configure v r

theorem generatedTo_nextTop {n : Nat} (h : GeneratedTo p r n t) : GeneratedTo p r (n + 1) (nextTop t) where
  cfg := (nextTop_cfg t).trans h.cfg
  err := nextTop_err t
  iter := by
    rw [nextTop_iter h.topInv.iterLe, h.iter]
    omega
  masks := (masksOf_nextTop t).trans h.masks
  topInv := topMove_keeps_topInv (nextTop_move p h.cfg) h.topInv
  codeInv := topMove_keeps_codeInv (nextTop_move p h.cfg) h.codeInv

theorem generatedTo_iterate (n : Nat) (hr : resolve p v = .ok r) :
    GeneratedTo p r n (nextTop^[n] (t.configure v r)) := by
  induction n with
  | zero => exact generatedTo_configure hr
  | succ n ih =>
    rw [Function.iterate_succ_apply']
    exact generatedTo_nextTop ih

theorem exhausted_iff_period_complete {n : Nat} (h : GeneratedTo p r n t) : t.exhausted = true ↔ 1023 ≤ n := by
  have hcap : (1023#11).toNat = 1023 := rfl
  rw [Top.exhausted_iff, ← BitVec.toNat_inj, h.iter, hcap]
  omega

theorem chipCell_of_generatedTo {n : Nat} (h : GeneratedTo p r n t) (i : Nat) : chipCell t.chips i =
    if i < min n 1023 then codeChip r.g1Fbm g1OutTaps r.g2Fbm r.g2Outm i else false := by
  obtain ⟨⟨hf1, ho1⟩, hf2, ho2⟩ := masksOf_eq_iff.mp h.masks
  rw [← h.iter, ← hf1, ← ho1, ← hf2, ← ho2]
  split
  next hi => exact h.codeInv.cells h.cfg i hi
  next hi => exact h.topInv.cellsAbove i (Nat.not_lt.mp hi)

theorem stages_of_generatedTo {n : Nat} (h : GeneratedTo p r n t) :
    t.g1.s = stagesAfter r.g1Fbm (min n 1023) ∧ t.g2.s = stagesAfter r.g2Fbm (min n 1023) := by
  obtain ⟨⟨hf1, -⟩, hf2, -⟩ := masksOf_eq_iff.mp h.masks
  rw [← h.iter, ← hf1, ← hf2]
  exact ⟨h.codeInv.g1Stages h.cfg, h.codeInv.g2Stages h.cfg⟩

/-! #### What a run does not look at -/

/-- The top with another SV ID and delay on record and another error history. -/
def relabel (sv : BitVec 6) (dlyv : Bool) (delay : Word) (errAny : Bool) (t : Top) : Top :=
  { t with sv := sv, dlyv := dlyv, delay := delay, errAny := errAny }

/-- PRN.NEXT neither reads nor writes what `relabel` replaces. -/
theorem nextTop_relabel (sv : BitVec 6) (dlyv : Bool) (delay : Word) (errAny : Bool) :
    Function.Commute nextTop (relabel sv dlyv delay errAny) := by
  intro t
  rcases Nat.lt_or_ge t.iter.toNat 1023 with hi | hi
  · rw [nextTop_chip hi]
    exact nextTop_chip (t := relabel sv dlyv delay errAny t) hi
  · rw [nextTop_exhausted hi]
    exact nextTop_exhausted (t := relabel sv dlyv delay errAny t) hi

theorem iterate_nextTop_relabel (n : Nat) (sv : BitVec 6) (dlyv : Bool) (delay : Word) (errAny : Bool) (t : Top) :
    nextTop^[n] (relabel sv dlyv delay errAny t) = relabel sv dlyv delay errAny (nextTop^[n] t) :=
  (nextTop_relabel sv dlyv delay errAny).iterate_left n t

/-- Runs whose resolutions differ in the delay alone, from any two tops, differ in their labels alone. -/
theorem run_eq_relabel (t t' : Top) (v v' n : Nat) {r' : Resolution}
    (hr : r' = { r with dlyv := r'.dlyv, delay := r'.delay }) : nextTop^[n] (t'.configure v' r') =
      relabel (BitVec.ofNat 6 v') r'.dlyv (BitVec.ofNat 32 r'.delay) t'.errAny
        (nextTop^[n] (t.configure v r)) := by
  have hstart : t'.configure v' r' =
      relabel (BitVec.ofNat 6 v') r'.dlyv (BitVec.ofNat 32 r'.delay) t'.errAny (t.configure v r) := by
    rw [hr]
    rfl
  rw [hstart, iterate_nextTop_relabel]

/-- SV IDs 38 to 63 have the base indices of 1 to 26 (R121). -/
theorem svPrnOf_alias (h38 : 38 ≤ v) (h63 : v ≤ 63) : svPrnOf (v - 37) = svPrnOf v := by
  rw [svPrnOf_eq, svPrnOf_eq, if_neg (by omega), if_pos (by omega)]

/-- An aliased SV ID resolves as its base index does, but for the delay. -/
theorem resolve_alias {r' : Resolution} (h38 : 38 ≤ v) (h63 : v ≤ 63) (hr : resolve p v = .ok r)
    (hr' : resolve p (v - 37) = .ok r') : r' = { r with dlyv := r'.dlyv, delay := r'.delay } := by
  obtain ⟨-, hprn, hg1, hg2, ho, -⟩ := resolve_ok hr
  obtain ⟨⟨h1, h26⟩, -, -, -, -, hdelay⟩ := resolve_ok hr'
  rw [← svPrnOf_alias h38 h63] at hprn ho
  have hparts := resolve_of_parts h1 h26 hg1 hg2 ho hdelay
  rw [← hprn] at hparts
  exact Except.ok.inj (hr'.symm.trans hparts)

end Runs

/-- Settles O42: the run's top, read off its invariant. -/
theorem generationRunGivesTheCode : Obligations.GenerationRunGivesTheCode := by
  intro s v n r hr
  have hrun : GeneratedTo s.params r n (nextTop^[n] (s.top.configure v r)) := generatedTo_iterate n hr
  exact ⟨_, runInstrs_generation n hr, hrun.cfg, hrun.err, hrun.iter, exhausted_iff_period_complete hrun,
    chipCell_of_generatedTo hrun, stages_of_generatedTo hrun⟩

/-- Settles O43: both runs are one run but for the labels, which are equal except `ERR_ANY`. -/
theorem runsFromAnyStateAgree : Obligations.RunsFromAnyStateAgree := by
  intro s s' v n r hp hr
  refine ⟨_, _, runInstrs_generation n hr, runInstrs_generation n (hp ▸ hr), ?_⟩
  rw [State.setTop_top, State.setTop_top, run_eq_relabel s.top s'.top v v n rfl, run_eq_relabel s.top s.top v v n rfl]
  rfl

/-- Settles O44: the two SV IDs have one base index, so their runs are one run but for the SV ID and the delay. -/
theorem aliasedSvIdsGiveTheSameCode : Obligations.AliasedSvIdsGiveTheSameCode := by
  intro s v n r r' h38 h63 hr hr'
  refine ⟨_, _, runInstrs_generation n hr, runInstrs_generation n hr', ?_⟩
  rw [State.setTop_top, State.setTop_top, run_eq_relabel s.top s.top v (v - 37) n (resolve_alias h38 h63 hr hr'),
    run_eq_relabel s.top s.top v v n rfl]
  rfl

end Sys2Proof.Proofs

/-! SUPPORT. Proofs of the statements on exceptions and the bus: every step completes (60_exceptions.md), and a platform
address reaches the window. -/

namespace Sys2Proof.Proofs

open Sys2Proof.Machine

/-! ### Completion (R157, R179) -/

/-- No instruction traps, halts or is refused. -/
theorem exec_completes (i : Instr) (s : State) : ∃ t, exec i s = .next t := by
  obtain ⟨l, u, he, -, -⟩ := exec_moves i s
  exact ⟨_, he⟩

/-- Settles O8: with nothing pending the state is held; otherwise an instruction runs, and completes, or a move that is
no instruction is made. -/
theorem everyStepCompletes : Obligations.EveryStepCompletes := by
  intro s
  cases hp : s.pending with
  | nil => exact ⟨s, step_nil hp⟩
  | cons op rest =>
    rcases step_cons hp with ⟨i, r, -, hs⟩ | ⟨-, l, u, r, hs, -, -⟩
    · rw [hs]
      exact exec_completes i _
    · exact ⟨_, hs⟩

/-! ### Platform addresses (R163) -/

section Platform

variable {p : Params} {addr : Nat}

/-- The platform address of a window address lies in the block's window. -/
theorem platformAddress_mem_window (h : addr < 2 ^ p.addrW) :
    p.base ≤ platformAddress p addr ∧ platformAddress p addr < p.base + 2 ^ p.addrW :=
  ⟨Nat.le_add_right _ _, Nat.add_lt_add_left h _⟩

/-- Taking `BASE` off a platform address gives the window address back. -/
theorem platformAddress_sub_base (p : Params) (addr : Nat) : platformAddress p addr - p.base = addr :=
  Nat.add_sub_cancel_left p.base addr

theorem ofPlatform_read (width : Nat) (h : addr < 2 ^ p.addrW) :
    Access.ofPlatform p (.read (platformAddress p addr) width) = some (.read addr width) := by
  rw [Access.ofPlatform, if_pos (platformAddress_mem_window h), platformAddress_sub_base]

theorem ofPlatform_write (width : Nat) (v : Word) (h : addr < 2 ^ p.addrW) :
    Access.ofPlatform p (.write (platformAddress p addr) width v) = some (.write addr width v) := by
  rw [Access.ofPlatform, if_pos (platformAddress_mem_window h), platformAddress_sub_base]

end Platform

/-- Settles O29: the platform address is in the window, at the window address. -/
theorem platformAddressesReachTheWindow : Obligations.PlatformAddressesReachTheWindow := by
  intro p addr width v h
  exact ⟨ofPlatform_read width h, ofPlatform_write width v h⟩

end Sys2Proof.Proofs

/-! SUPPORT. Proof of the statement on reset as an operation (70_reset_and_hazards.md): a reset of the top or of the leaf
puts that part in the state it has after instantiation. -/

namespace Sys2Proof.Proofs

open Sys2Proof.Machine

/-! ### Reset as an operation (R170, R171) -/

theorem step_topReset {s : State} {rest : List Operation} (o : Option Access)
    (hp : s.pending = .topReset o :: rest) :
    step s = .next ((s.setPending rest).resetTop o) := by
  simp [step, fetch, hp, fetchOperation]

/-- A reset of the top leaves the access port unanswered, and no trace of the access it overlaps. -/
theorem resetTop_eq_instantiate (s : State) (o : Option Access) :
    s.resetTop o = { s with top := (State.instantiate s.params).top, response := none } := rfl

/-- A reset of the leaf leaves no trace of the op it overlaps. -/
theorem resetLeaf_eq_instantiate (s : State) (o : Option Srop) :
    s.resetLeaf o = { s with leaf := (State.instantiate s.params).leaf } := rfl

/-- Settles O31: each reset is a step of its own that runs no instruction, and its result is the instantiated part in the
state it found. -/
theorem resetOperationRestoresResetState : Obligations.ResetOperationRestoresResetState := by
  refine ⟨fun s o rest hp => ⟨none, ?_⟩, fun s o rest hp => ?_⟩
  · rw [step_topReset o hp, resetTop_eq_instantiate]
    rfl
  · rw [step_leafReset o hp, resetLeaf_eq_instantiate]
    rfl

end Sys2Proof.Proofs
